-- ==== Sys2Proof/Word.lean ====
section
/-!
DEFINITION. The words that cross the block's ports.
-/

namespace Sys2Proof

/-- One byte of the byte view of the SampleBuffer (20_memory.md R55). -/
abbrev Byte := BitVec 8

/-- A command word or a response word: 32 bits, bit 0 least significant
(30_encoding.md R81, R85; 00_scope.md R10). -/
abbrev Word := BitVec 32

/-- What the sample port delivers: a sample in the low ADC_BITS bits of a halfword
(30_encoding.md R87; the container is the halfword of 20_memory.md R55). -/
abbrev SampleWord := BitVec 16

end Sys2Proof
end

