-- ==== Sys2Proof/Config.lean ====
section
/-!
DEFINITION. The construction-time parameters of the block (00_scope.md R6; what is derived from them stands in
Machine/Operands.lean) and its one free value,
the contents of a cell that nothing has written since power-on (10_state.md R34, R57).
-/

namespace Sys2Proof

/-- The edge direction of the trigger configuration (10_state.md R23). -/
inductive Edge where
  | disabled
  | rising
  | falling
  deriving DecidableEq, Repr

/-- The open parameters of 00_scope.md R6, in its order. They are fixed at construction; State carries them and no step
changes them (notes/assumptions/1.md). -/
structure Params where
  /-- ADC_BITS: bits of one sample. -/
  adcBits : Nat
  /-- L: SampleBuffer capacity in samples. -/
  L : Nat
  /-- W: display width in columns. -/
  W : Nat
  /-- WAVE_H: wave height. -/
  waveH : Nat
  /-- RESET_LEVEL: TRIG_LEVEL after reset. -/
  resetLevel : Nat
  /-- RESET_EDGE: TRIG_EDGE after reset. -/
  resetEdge : Edge
  deriving DecidableEq, Repr

namespace Params

/-- The parameter set of `State.reset`: DESIGN CHOICE (notes/assumptions/1.md). The document's own example values where it
has them (12 bits, buffer 16, width 8), the spec's test values for the rest. -/
def example12 : Params :=
  ⟨12, 16, 8, 64, 0, .disabled⟩

end Params

/-- FREE VALUE: what cell `k` holds at power-on number `n`, before it is brought into [0, MAX_SAMPLE]. "One draw per cell at
reset in [0, MAX_SAMPLE], stable until written" (93_implementation_defined.md U1). Nothing is known of it
(notes/assumptions/2.md). -/
opaque Config.powerOnSample (n k : Nat) : Nat

end Sys2Proof
end

