-- ==== Sys2Proof/Syntax.lean ====
section
/-!
DEFINITION. The operations of spec/opcode_table.json: seven commands and the producer step. Operands are those of the
assembler syntax (30_encoding.md R90): a signed level, an edge, a sample.
-/

namespace Sys2Proof

/-- One constructor per row of the opcode table (30_encoding.md R82, R87). -/
inductive Instr where
  /-- START (44_capture_driver.md R166). -/
  | start
  /-- STOP (R167). -/
  | stop
  /-- IS_RUNNING (R168). -/
  | isRunning
  /-- PROCESS (R169). -/
  | process
  /-- SET_TRIGGER level, edge (45_trigger_config.md R190). -/
  | setTrigger (level : Int) (edge : Edge)
  /-- GET_TRIGGER_LEVEL (R192). -/
  | getTriggerLevel
  /-- GET_TRIGGER_EDGE (R193). -/
  | getTriggerEdge
  /-- P_SAMPLE v (40_sample_source.md R101). -/
  | pSample (v : Nat)
  deriving DecidableEq, Repr

end Sys2Proof
end

