-- ==== Sys2Proof/WellFormed.lean ====
section
/-!
DEFINITION. Which terms of `Instr` are operations of the block: the level operand fits its 16-bit signed field
(30_encoding.md R84) and the sample fits the ADC_BITS-wide port (R87).
-/

namespace Sys2Proof

/-- `i` can be written as a word of its port, on a block with `adcBits`-bit samples. -/
abbrev Instr.WellFormed (adcBits : Nat) (i : Instr) : Prop :=
  match i with
  | .start => True
  | .stop => True
  | .isRunning => True
  | .process => True
  | .setTrigger level _ => -32768 ≤ level ∧ level ≤ 32767
  | .getTriggerLevel => True
  | .getTriggerEdge => True
  | .pSample v => v < 2 ^ adcBits

end Sys2Proof
end

