-- ==== Sys2Proof/Decode.lean ====
section
/-!
DEFINITION. Decoding of command words and sample words (30_encoding.md R81 to R87), and the encoder written from the same
tables. A command word goes to the command port, a sample word to the sample port; each port has its own format, so the
decoder is told the port.
-/

namespace Sys2Proof

/-- A word together with the port it is delivered on (30_encoding.md R80 (a), (c)). -/
inductive PortWord where
  | command (w : Word)
  | sample (w : SampleWord)
  deriving DecidableEq, Repr

/-- Why a word is no operation. The first four are the reserved command words of 30_encoding.md R86; the last is a halfword
that an ADC_BITS-wide port cannot deliver (R87, notes/assumptions/12.md). -/
inductive Reserved where
  /-- Opcode 0 or 8 to 15. -/
  | opcode
  /-- `cmd[27:18]` is not zero. -/
  | reservedBits
  /-- `cmd[17:0]` is not zero and the opcode is not SET_TRIGGER. -/
  | operandBits
  /-- SET_TRIGGER with edge code 3. -/
  | edgeCode
  /-- A sample of more than ADC_BITS bits. -/
  | sampleWidth
  deriving DecidableEq, Repr

/-- The decoder's answer. -/
inductive Decoded where
  | instr (i : Instr)
  | reserved (r : Reserved)
  deriving DecidableEq, Repr

/-- `sext_16` of 00_scope.md R10. -/
def sext16 (v : BitVec 16) : Int :=
  if v.toNat < 32768 then (v.toNat : Int) else (v.toNat : Int) - 65536

/-- The edge code (30_encoding.md R83). -/
def Edge.code : Edge → BitVec 2
  | .disabled => 0
  | .rising => 1
  | .falling => 2

/-- The edge of a code; 3 is reserved (30_encoding.md R83). -/
def Edge.ofCode (c : BitVec 2) : Option Edge :=
  match c.toNat with
  | 0 => some .disabled
  | 1 => some .rising
  | 2 => some .falling
  | _ => none

/-- `cmd[31:28]` (30_encoding.md R81). -/
def opcodeField (w : Word) : BitVec 4 := w.extractLsb' 28 4

/-- `cmd[27:18]`, reserved. -/
def zeroField (w : Word) : BitVec 10 := w.extractLsb' 18 10

/-- `cmd[17:16]`. -/
def edgeField (w : Word) : BitVec 2 := w.extractLsb' 16 2

/-- `cmd[15:0]`. -/
def levelField (w : Word) : BitVec 16 := w.extractLsb' 0 16

/-- A command without operands: its edge and level fields must be zero (30_encoding.md R81, R86). -/
def decodePlain (i : Instr) (w : Word) : Decoded :=
  if edgeField w = 0 ∧ levelField w = 0 then .instr i else .reserved .operandBits

/-- SET_TRIGGER's operands (30_encoding.md R83, R84). -/
def decodeSetTrigger (w : Word) : Decoded :=
  match Edge.ofCode (edgeField w) with
  | some e => .instr (.setTrigger (sext16 (levelField w)) e)
  | none => .reserved .edgeCode

/-- The opcode map of 30_encoding.md R82. -/
def decodeOpcode (w : Word) : Decoded :=
  match (opcodeField w).toNat with
  | 1 => decodePlain .start w
  | 2 => decodePlain .stop w
  | 3 => decodePlain .isRunning w
  | 4 => decodePlain .process w
  | 5 => decodeSetTrigger w
  | 6 => decodePlain .getTriggerLevel w
  | 7 => decodePlain .getTriggerEdge w
  | _ => .reserved .opcode

/-- Format C (30_encoding.md R81, R86). -/
def decodeCommand (w : Word) : Decoded :=
  if zeroField w = 0 then decodeOpcode w else .reserved .reservedBits

/-- Format S: every pattern of ADC_BITS bits is a sample (30_encoding.md R87). -/
def decodeSample (adcBits : Nat) (w : SampleWord) : Decoded :=
  if w.toNat < 2 ^ adcBits then .instr (.pSample w.toNat) else .reserved .sampleWidth

/-- The decoder: total on every word of either port. -/
def decode (adcBits : Nat) : PortWord → Decoded
  | .command w => decodeCommand w
  | .sample w => decodeSample adcBits w

/-- A command word from its fields: opcode ++ 0000000000 ++ edge ++ level (30_encoding.md R81, R93). -/
def commandWord (opcode : BitVec 4) (edge : BitVec 2) (level : BitVec 16) : Word :=
  opcode ++ (0 : BitVec 10) ++ edge ++ level

/-- The encoder (30_encoding.md R82 to R84, R87). -/
def encode : Instr → PortWord
  | .start => .command (commandWord 1 0 0)
  | .stop => .command (commandWord 2 0 0)
  | .isRunning => .command (commandWord 3 0 0)
  | .process => .command (commandWord 4 0 0)
  | .setTrigger level edge => .command (commandWord 5 edge.code (BitVec.ofInt 16 level))
  | .getTriggerLevel => .command (commandWord 6 0 0)
  | .getTriggerEdge => .command (commandWord 7 0 0)
  | .pSample v => .sample (BitVec.ofNat 16 v)

/-- The port and the word of an instruction given as a number: sample words have at most 16 bits, command words 32
(30_encoding.md R81, R87; notes/assumptions/19.md). -/
def portWordOf (nbits w : Nat) : PortWord :=
  if nbits ≤ 16 then .sample (BitVec.ofNat 16 w) else .command (BitVec.ofNat 32 w)

/-- The instruction of a row of spec/opcode_table.json whose bits are `w`, or none. The sample port is the 12-bit one that
the table's row shows. -/
def decodeTableWord (nbits w : Nat) : Option Instr :=
  match decode Params.example12.adcBits (portWordOf nbits w) with
  | .instr i => some i
  | .reserved _ => none

end Sys2Proof
end

