-- ==== Sys2Proof/Machine/State.lean ====
section
/-!
DEFINITION. The state of the block as plain data (10_state.md R20 to R36), the port events still to come, the outputs so far,
the ways a step can stop, and the state after reset (R34).
-/

namespace Sys2Proof.Machine

/-- `RUN` (10_state.md R21). -/
inductive RunState where
  | stopped
  | running
  deriving DecidableEq, Repr

/-- The two halves of the SampleBuffer (20_memory.md R51). `h0` has HALF_FLAG and CURSOR0, `h1` has FULL_FLAG and CURSOR1. -/
inductive Half where
  | h0
  | h1
  deriving DecidableEq, Repr

/-- `SEQ.phase` (10_state.md R29): `test h` is Test0 or Test1, and so on. `emit` and `respond` are the positions of the two
steps of 44_capture_driver.md R169, R170 for which R29 has no name (notes/assumptions/7.md). -/
inductive Phase where
  | idle
  | test (h : Half)
  | snap (h : Half)
  | search (h : Half)
  | map (h : Half)
  | emit (h : Half)
  | commit (h : Half)
  | respond
  deriving DecidableEq, Repr

/-- `SEQ`, the position inside a PROCESS and its work values (10_state.md R29, R30). -/
structure Sequencer where
  phase : Phase
  /-- SEQ.i, the pair index of the scan. -/
  i : Nat
  /-- SEQ.prev, the first sample of the pair, when it has been read and the second has not. -/
  prev : Option Nat
  /-- SEQ.col, the column being mapped. -/
  col : Nat
  /-- SEQ.T, the trigger absolute index of the hit being mapped. -/
  T : Nat
  /-- SEQ.lvl, the level of the snapshot. -/
  lvl : Nat
  /-- SEQ.edg, the edge of the snapshot. -/
  edg : Edge
  /-- `res` of 44_capture_driver.md R170: `some r` is Found r, `none` is NotFound (notes/assumptions/7.md). -/
  res : Option Nat
  deriving DecidableEq, Repr

/-- The SampleBuffer in the byte view of 20_memory.md R55, as the bytes written since power-on: a list with rising addresses
and no address twice (`Memory.wf`). -/
abbrev Memory := List Host.Cell

/-- Who puts a word on the command port (00_scope.md R9, 30_encoding.md R80 (a)). -/
inductive Agent where
  | consumer
  | controller
  deriving DecidableEq, Repr

/-- One turn of the schedule (10_state.md R31 (b), (c), (d); notes/assumptions/5.md). -/
inductive Event where
  /-- A command word arrives on the command port. -/
  | command (agent : Agent) (w : Word)
  /-- A strobe of the sample port. -/
  | sample (w : SampleWord)
  /-- The arm port takes a level (30_encoding.md R88). -/
  | arm (level : Bool)
  /-- The PROCESS in progress takes its next atomic step. -/
  | turn
  deriving DecidableEq, Repr

/-- What the block puts out (00_scope.md R12): a response word (30_encoding.md R85) or a frame (R89). -/
inductive Output where
  | response (w : Word)
  | frame (ys : List Nat)
  deriving DecidableEq, Repr

/-- The status field of a response (30_encoding.md R85). -/
inductive Status where
  | ok
  | errHardware
  | errIllegal
  deriving DecidableEq, Repr

/-- The whole machine. -/
structure State where
  /-- The parameters the block was constructed with (00_scope.md R6). -/
  params : Params
  /-- RUN (10_state.md R21). -/
  run : RunState
  /-- TRIG_LEVEL (R22). -/
  trigLevel : Nat
  /-- TRIG_EDGE (R23). -/
  trigEdge : Edge
  /-- CURSOR0 (R24). -/
  cursor0 : Nat
  /-- CURSOR1 (R24). -/
  cursor1 : Nat
  /-- HALF_FLAG (R25). -/
  halfFlag : Bool
  /-- FULL_FLAG (R25). -/
  fullFlag : Bool
  /-- WPTR (R26). -/
  wptr : Nat
  /-- BUF (R27), the bytes written since power-on. -/
  mem : Memory
  /-- Which power-on this is: an unwritten cell reads the free value of this number (notes/assumptions/2.md). -/
  powerOn : Nat
  /-- FRAME (R28). -/
  frame : List Nat
  /-- SEQ (R29). -/
  seq : Sequencer
  /-- The level of the arm port (30_encoding.md R88; notes/assumptions/4.md). -/
  armPort : Bool
  /-- The schedule still to come (notes/assumptions/5.md). -/
  inbox : List Event
  /-- The outputs so far, oldest first (notes/assumptions/6.md). -/
  out : List Output
  deriving DecidableEq, Repr

/-- What stops the machine. The block has no trap (60_exceptions.md R204). -/
inductive Fault where
  /-- Raised by BufRead and BufWrite for an index outside [0, L − 1], an address that does not exist (20_memory.md R50, R54).
  Safe: no state that meets the invariant reaches it (notes/assumptions/13.md). -/
  | outsideBuffer (k : Nat)
  deriving DecidableEq, Repr

/-- What the model does not admit. -/
inductive Refusal where
  /-- Raised by an arm of `exec` that has no meaning yet. Safe. No arm raises it. -/
  | notModelled (mnemonic : String)
  /-- Raised by construction and by `step` for a parameter set that fails 00_scope.md R7: "the model refuses it". Safe. -/
  | invalidParameters
  /-- Raised for a second consumer command during a PROCESS: "a model refuses such a schedule"
  (44_capture_driver.md R179). Safe (notes/assumptions/11.md). -/
  | commandDuringProcess
  /-- Raised by `step` for a sample word wider than the port, which cannot arrive (40_sample_source.md R107). Safe
  (notes/assumptions/12.md). -/
  | sampleWiderThanPort
  deriving DecidableEq, Repr

/-- The sequencer between commands; only `phase` is the spec's (10_state.md R34), the work values are never read before they
are written (notes/assumptions/9.md). -/
def Sequencer.reset : Sequencer :=
  ⟨.idle, 0, none, 0, 0, 0, .disabled, none⟩

/-- The state after construction with the parameters `p` (10_state.md R34, 70_reset_and_hazards.md R230). -/
def State.resetWith (p : Params) : State where
  params := p
  run := .stopped
  trigLevel := p.resetLevel
  trigEdge := p.resetEdge
  cursor0 := 0
  cursor1 := 0
  halfFlag := false
  fullFlag := false
  wptr := 0
  mem := []
  powerOn := 0
  frame := List.replicate p.W 0
  seq := Sequencer.reset
  armPort := true
  inbox := []
  out := []

/-- The machine right after reset, for the parameter set of notes/assumptions/1.md. -/
def State.reset : State := State.resetWith Params.example12

end Sys2Proof.Machine
end

