-- ==== Sys2Proof/Machine/Operands.lean ====
section
/-!
DEFINITION. The derived parameters (00_scope.md R6 to R8), the address computations (20_memory.md R51, R58; 42_window_mapper.md
R136 to R138), the crossing test (41_trigger_search.md R122 to R125), the scale (42_window_mapper.md R140, R141) and the clamp
of a level (45_trigger_config.md R191). All on unbounded integers (42_window_mapper.md R144).
-/

namespace Sys2Proof

namespace Params

/-- MAX_SAMPLE = 2^ADC_BITS − 1 (00_scope.md R6). -/
def maxSample (p : Params) : Nat := 2 ^ p.adcBits - 1

/-- HALF = L / 2 (00_scope.md R6). -/
def half (p : Params) : Nat := p.L / 2

/-- LEAD = W div 4 (42_window_mapper.md R136; 90_conflicts.md C1). -/
def lead (p : Params) : Nat := p.W / 4

/-- The constraints of 00_scope.md R7, with the range R6 gives RESET_LEVEL. W need not be at most L (R7 (d)). -/
abbrev valid (p : Params) : Prop :=
  (1 ≤ p.adcBits ∧ p.adcBits ≤ 15) ∧ (p.L % 2 = 0 ∧ 2 ≤ p.L) ∧ 1 ≤ p.W ∧ 1 ≤ p.waveH ∧ p.resetLevel ≤ p.maxSample

end Params

namespace Machine

/-- `clamp(v, lo, hi)` of 00_scope.md R10. -/
def clamp (v lo hi : Int) : Int :=
  if v < lo then lo else if hi < v then hi else v

/-- The level SET_TRIGGER stores: clamped to [0, MAX_SAMPLE] (45_trigger_config.md R191). -/
def clampLevel (p : Params) (level : Int) : Nat := (clamp level 0 p.maxSample).toNat

/-- `base`: 0 for H0, HALF for H1 (41_trigger_search.md R120). -/
def halfBase (p : Params) : Half → Nat
  | .h0 => 0
  | .h1 => p.half

/-- The cell index after `k`, wrapping at L (20_memory.md R58, 40_sample_source.md R101). -/
def nextIndex (p : Params) (k : Nat) : Nat := (k + 1) % p.L

/-- Cell `k` belongs to half `h` (20_memory.md R51). -/
def inHalf (p : Params) (h : Half) (k : Nat) : Bool :=
  match h with
  | .h0 => decide (k < p.half)
  | .h1 => decide (p.half ≤ k ∧ k < p.L)

/-- Whether the pair (prev, cur) is a crossing: strict on `prev`, not strict on `cur` (41_trigger_search.md R122 to R125). -/
def crosses (edg : Edge) (lvl prev cur : Nat) : Bool :=
  match edg with
  | .rising => decide (prev < lvl ∧ lvl ≤ cur)
  | .falling => decide (lvl < prev ∧ cur ≤ lvl)
  | .disabled => false

/-- `(T − lead + c) emod L` (42_window_mapper.md R138), with the lead as an operand. -/
def windowIndexAt (L lead T c : Nat) : Nat := (((T : Int) - lead + c) % (L : Int)).toNat

/-- The raw index of column `c` of the window around `T` (42_window_mapper.md R138). -/
def windowIndex (p : Params) (T c : Nat) : Nat := windowIndexAt p.L p.lead T c

/-- `yraw = WAVE_H − (sample × WAVE_H) div MAX_SAMPLE` (42_window_mapper.md R140). -/
def yRaw (p : Params) (sample : Nat) : Int := (p.waveH : Int) - ((sample * p.waveH / p.maxSample : Nat) : Int)

/-- The y coordinate of a sample: `clamp(yraw, 0, WAVE_H − 1)` (42_window_mapper.md R141). -/
def yOf (p : Params) (sample : Nat) : Nat := (clamp (yRaw p sample) 0 ((p.waveH : Int) - 1)).toNat

/-- The cursor a search leaves: `min(r + 1, HALF − 1)` after Found r (44_capture_driver.md R171), 0 after NotFound (R172). -/
def cursorAfter (p : Params) : Option Nat → Nat
  | some r => min (r + 1) (p.half - 1)
  | none => 0

end Machine

end Sys2Proof
end

