-- ==== Sys2Proof/Machine/Flags.lean ====
section
/-!
DEFINITION. The two completion flags (10_state.md R25): single-bit, overwrite-on-set, with a test-and-clear read
(20_memory.md R62), and the rule that sets them (40_sample_source.md R101).
-/

namespace Sys2Proof.Machine

/-- The flag of a half: HALF_FLAG for H0, FULL_FLAG for H1 (20_memory.md R51). -/
def State.flag (s : State) : Half → Bool
  | .h0 => s.halfFlag
  | .h1 => s.fullFlag

/-- The flag of half `h` becomes `b`. -/
def State.putFlag (s : State) (h : Half) (b : Bool) : State :=
  match h with
  | .h0 => { s with halfFlag := b }
  | .h1 => { s with fullFlag := b }

/-- `TestAndClear(flag_h)`: the value of the flag, which is 0 afterwards (20_memory.md R62). -/
def testAndClear (h : Half) (s : State) : Bool × State := (s.flag h, s.putFlag h false)

/-- The producer's flag rule, for the index `n` after the write: HALF_FLAG if n = HALF, FULL_FLAG if n = 0; a flag already 1
stays 1 (40_sample_source.md R101, R103). -/
def raiseFlags (n : Nat) (s : State) : State :=
  { s with
    halfFlag := s.halfFlag || decide (n = s.params.half)
    fullFlag := s.fullFlag || decide (n = 0) }

end Sys2Proof.Machine
end

