-- ==== Sys2Proof/Machine/Ops.lean ====
section
/-!
DEFINITION. The named operations the meanings share: the byte view of the SampleBuffer, BufRead and BufWrite, the snapshot, the
cursors, the responses (60_exceptions.md R200 to R206: an error is a response status, there is no trap to take and none to
return from), and construction.
-/

namespace Sys2Proof.Machine

/-! ### Memory: a list of bytes in one canonical form (20_memory.md R55; notes/assumptions/3.md) -/

/-- What an address that is not listed reads as: no value, nothing has been written there. -/
def Memory.unlisted : Option Byte := none

/-- The byte at address `a`. -/
def Memory.read : Memory → Nat → Option Byte
  | [], _ => Memory.unlisted
  | (b, v) :: m, a => if a = b then some v else Memory.read m a

/-- The byte `v` is written at address `a`; the list stays rising. -/
def Memory.write : Memory → Nat → Byte → Memory
  | [], a, v => [(a, v)]
  | (b, u) :: m, a, v =>
    if a < b then (a, v) :: (b, u) :: m
    else if a = b then (a, v) :: m
    else (b, u) :: Memory.write m a v

/-- The canonical form: addresses strictly rising, no entry equal to what an unlisted address reads as. -/
abbrev Memory.wf (m : Memory) : Prop :=
  m.Pairwise (fun x y => x.1 < y.1) ∧ ∀ e ∈ m, some e.2 ≠ Memory.unlisted

/-- Cell `k` is the halfword at byte address 2k, little-endian (20_memory.md R55). -/
def lowByte (k : Nat) : Nat := 2 * k

/-- The address of the high byte of cell `k`. -/
def highByte (k : Nat) : Nat := 2 * k + 1

/-- A sample as its two bytes is written into cell `k`. -/
def Memory.writeCell (m : Memory) (k v : Nat) : Memory :=
  (m.write (lowByte k) (BitVec.ofNat 8 v)).write (highByte k) (BitVec.ofNat 8 (v / 256))

/-- What cell `k` holds, if it was written since power-on. -/
def Memory.readCell (m : Memory) (k : Nat) : Option Nat :=
  match m.read (lowByte k), m.read (highByte k) with
  | some lo, some hi => some (lo.toNat + 256 * hi.toNat)
  | _, _ => none

/-! ### The SampleBuffer -/

/-- The reset value of cell `k`: unspecified, in [0, MAX_SAMPLE], stable until written (10_state.md R34, 20_memory.md R57). -/
def State.powerOnCell (s : State) (k : Nat) : Nat :=
  Config.powerOnSample s.powerOn k % (s.params.maxSample + 1)

/-- `BUF[k]`: the value of the latest write, or the reset value (20_memory.md R53, R57, R59). -/
def State.cell (s : State) (k : Nat) : Nat :=
  (s.mem.readCell k).getD (s.powerOnCell k)

/-- `BufRead(k)`: one atomic read of a whole cell (00_scope.md R11, 20_memory.md R53); none for an index that names no cell. -/
def bufRead (k : Nat) (s : State) : Option Nat :=
  if k < s.params.L then some (s.cell k) else none

/-- `BufWrite(k, v)`: one atomic write of a whole cell (00_scope.md R11, 20_memory.md R53); none for an index that names no
cell. -/
def bufWrite (k v : Nat) (s : State) : Option State :=
  if k < s.params.L then some { s with mem := s.mem.writeCell k v } else none

/-! ### Registers -/

/-- `Snapshot()`: the pair (TRIG_LEVEL, TRIG_EDGE), read together (20_memory.md R65). -/
def snapshot (s : State) : Nat × Edge := (s.trigLevel, s.trigEdge)

/-- TRIG_LEVEL and TRIG_EDGE are written together (20_memory.md R65). -/
def State.setTrig (s : State) (level : Nat) (edge : Edge) : State :=
  { s with trigLevel := level, trigEdge := edge }

/-- The cursor of half `h`: CURSOR0 for H0, CURSOR1 for H1 (10_state.md R24). -/
def State.cursor (s : State) : Half → Nat
  | .h0 => s.cursor0
  | .h1 => s.cursor1

/-- The cursor of half `h` becomes `v`. -/
def State.putCursor (s : State) (h : Half) (v : Nat) : State :=
  match h with
  | .h0 => { s with cursor0 := v }
  | .h1 => { s with cursor1 := v }

/-- SEQ becomes `q`. -/
def State.putSeq (s : State) (q : Sequencer) : State := { s with seq := q }

/-- SEQ moves to phase `ph`. -/
def State.goto (s : State) (ph : Phase) : State := s.putSeq { s.seq with phase := ph }

/-- A PROCESS is in progress (44_capture_driver.md R179). -/
def State.busy (s : State) : Bool := decide (s.seq.phase ≠ .idle)

/-- Arming: what a START that succeeds does to the state (44_capture_driver.md R166, 40_sample_source.md R104). -/
def State.armed (s : State) : State :=
  { s with
    wptr := 0
    cursor0 := 0
    cursor1 := 0
    halfFlag := false
    fullFlag := false
    run := .running }

/-! ### Outputs -/

/-- The status code (30_encoding.md R85). -/
def Status.code : Status → BitVec 4
  | .ok => 0
  | .errHardware => 1
  | .errIllegal => 2

/-- The response word: status ++ zero ++ value (30_encoding.md R85). -/
def responseWord (st : Status) (value : Nat) : Word :=
  st.code ++ (0 : BitVec 12) ++ BitVec.ofNat 16 value

/-- An output is appended. -/
def State.put (s : State) (o : Output) : State := { s with out := s.out ++ [o] }

/-- `Respond(status, value)` (00_scope.md R11). -/
def respond (st : Status) (value : Nat) (s : State) : State := s.put (.response (responseWord st value))

/-- `EmitFrame(ys)` (00_scope.md R11, 43_render_interface.md R155). -/
def emitFrame (ys : List Nat) (s : State) : State := s.put (.frame ys)

/-- Reporting an error, the one thing that happens in place of a trap: a response with value 0 and no other effect
(60_exceptions.md R201, R203, R204). -/
def reportError (st : Status) (s : State) : State := respond st 0 s

/-- A consumer command is taken only when no PROCESS is in progress (44_capture_driver.md R179). -/
def whenIdle (s : State) (r : Host.Outcome State Fault Refusal) : Host.Outcome State Fault Refusal :=
  if s.busy then .refused .commandDuringProcess else r

/-! ### Construction -/

/-- Construction: the parameters are bound and checked once (70_reset_and_hazards.md R231, 00_scope.md R7). -/
def construct (p : Params) : Host.Outcome State Fault Refusal :=
  if p.valid then .next (State.resetWith p) else .refused .invalidParameters

end Sys2Proof.Machine
end

