-- ==== Sys2Proof/Machine/Lifecycle.lean ====
section
/-!
DEFINITION. START, STOP and IS_RUNNING (44_capture_driver.md R165 to R168). Each is one atomic step.
-/

namespace Sys2Proof.Machine

/-- START (44_capture_driver.md R166): a no-op while Running; from Stopped, armed if the arm port says so, else ERR_HARDWARE
with nothing changed (60_exceptions.md R201). -/
def execStart (s : State) : Host.Outcome State Fault Refusal :=
  whenIdle s <|
    match s.run with
    | .running => .next (respond .ok 0 s)
    | .stopped => if s.armPort then .next (respond .ok 0 s.armed) else .next (reportError .errHardware s)

/-- STOP (44_capture_driver.md R167): RUN becomes Stopped, nothing else changes. With it the Sample Source is disarmed
(40_sample_source.md R105): no sample is taken from here on. -/
def execStop (s : State) : Host.Outcome State Fault Refusal :=
  whenIdle s (.next (respond .ok 0 { s with run := .stopped }))

/-- IS_RUNNING (44_capture_driver.md R168): value 1 if Running, else 0. -/
def execIsRunning (s : State) : Host.Outcome State Fault Refusal :=
  whenIdle s <|
    match s.run with
    | .running => .next (respond .ok 1 s)
    | .stopped => .next (respond .ok 0 s)

end Sys2Proof.Machine
end

