-- ==== Sys2Proof/Machine/Process.lean ====
section
/-!
DEFINITION. PROCESS (44_capture_driver.md R169 to R178) with the SEARCH of 41_trigger_search.md R121 and the MAPWINDOW of
42_window_mapper.md R135: the command's first atomic step, and the atomic step at every later position of SEQ. Local
computation between two atomic steps belongs to the step before it (notes/assumptions/8.md).
-/

namespace Sys2Proof.Machine

/-- PROCESS, its first atomic step: RUN is read (44_capture_driver.md R169). Running goes on to Test0, Stopped to the response
(R175). The steps that follow are `processStep`. -/
def execProcess (s : State) : Host.Outcome State Fault Refusal :=
  whenIdle s <|
    match s.run with
    | .stopped => .next (s.goto .respond)
    | .running => .next (s.goto (.test .h0))

/-- Where PROCESS goes on when HANDLE(h) returns: H0 before H1 (44_capture_driver.md R169, R173). -/
def afterHalf : Half → Phase
  | .h0 => .test .h1
  | .h1 => .respond

/-- The scan comes to pair `i` of half `h`, or ends in NotFound when `i` is past HALF − 2 or the edge is Disabled
(41_trigger_search.md R121, R124). -/
def enterPair (h : Half) (i : Nat) (s : State) : State :=
  if i + 1 < s.params.half ∧ s.seq.edg ≠ .disabled then
    s.putSeq { s.seq with phase := .search h, i := i, prev := none }
  else
    s.putSeq { s.seq with phase := .commit h, prev := none, res := none }

/-- The scan ends in Found r: mapping starts at column 0 around T = base + r (42_window_mapper.md R137). -/
def enterMap (h : Half) (r : Nat) (s : State) : State :=
  s.putSeq { s.seq with phase := .map h, prev := none, res := some r, T := halfBase s.params h + r, col := 0 }

/-- Test_h: the flag is tested and cleared; a half whose flag was 0 is left alone (44_capture_driver.md R170). -/
def stepTest (h : Half) (s : State) : Host.Outcome State Fault Refusal :=
  match testAndClear h s with
  | (true, s1) => .next (s1.goto (.snap h))
  | (false, s1) => .next (s1.goto (afterHalf h))

/-- Snap_h: the trigger configuration is read once for this search, which starts at the half's cursor (10_state.md R30,
44_capture_driver.md R170). -/
def stepSnap (h : Half) (s : State) : Host.Outcome State Fault Refusal :=
  match snapshot s with
  | (lvl, edg) => .next (enterPair h (s.cursor h) (s.putSeq { s.seq with lvl := lvl, edg := edg }))

/-- Search_h: one read, of the pair's first cell or of its second; after the second the pair is compared
(41_trigger_search.md R121). -/
def stepSearch (h : Half) (s : State) : Host.Outcome State Fault Refusal :=
  match s.seq.prev with
  | none =>
    match bufRead (halfBase s.params h + s.seq.i) s with
    | none => .fault (.outsideBuffer (halfBase s.params h + s.seq.i))
    | some v => .next (s.putSeq { s.seq with prev := some v })
  | some prev =>
    match bufRead (halfBase s.params h + s.seq.i + 1) s with
    | none => .fault (.outsideBuffer (halfBase s.params h + s.seq.i + 1))
    | some cur =>
      if crosses s.seq.edg s.seq.lvl prev cur then .next (enterMap h (s.seq.i + 1) s)
      else .next (enterPair h (s.seq.i + 1) s)

/-- Map_h: one column is read, scaled and stored in FRAME; after the last the frame is complete (42_window_mapper.md R135,
R139). The read is not confined to the half that was searched. -/
def stepMap (h : Half) (s : State) : Host.Outcome State Fault Refusal :=
  match bufRead (windowIndex s.params s.seq.T s.seq.col) s with
  | none => .fault (.outsideBuffer (windowIndex s.params s.seq.T s.seq.col))
  | some v =>
    .next
      { s with
        frame := s.frame.set s.seq.col (yOf s.params v)
        seq :=
          if s.seq.col + 1 < s.params.W then { s.seq with col := s.seq.col + 1 }
          else { s.seq with phase := .emit h } }

/-- The emit of HANDLE(h): FRAME goes out whole, as one event that waits for nothing (43_render_interface.md
R155 to R157). -/
def stepEmit (h : Half) (s : State) : Host.Outcome State Fault Refusal :=
  .next ((emitFrame s.frame s).goto (.commit h))

/-- Commit_h: the cursor is written (44_capture_driver.md R171, R172). -/
def stepCommit (h : Half) (s : State) : Host.Outcome State Fault Refusal :=
  .next ((s.putCursor h (cursorAfter s.params s.seq.res)).goto (afterHalf h))

/-- The response of PROCESS, which ends it: always OK with value 0 (44_capture_driver.md R169). -/
def stepRespond (s : State) : Host.Outcome State Fault Refusal :=
  .next ((respond .ok 0 s).goto .idle)

/-- The next atomic step of the PROCESS in progress. Between commands there is none to take. -/
def processStep (s : State) : Host.Outcome State Fault Refusal :=
  match s.seq.phase with
  | .idle => .next s
  | .test h => stepTest h s
  | .snap h => stepSnap h s
  | .search h => stepSearch h s
  | .map h => stepMap h s
  | .emit h => stepEmit h s
  | .commit h => stepCommit h s
  | .respond => stepRespond s

end Sys2Proof.Machine
end

