-- ==== Sys2Proof/Machine/Producer.lean ====
section
/-!
DEFINITION. The producer step P_SAMPLE (40_sample_source.md R101 to R108).
-/

namespace Sys2Proof.Machine

/-- P_SAMPLE v (40_sample_source.md R101): write at WPTR, advance with wrap, set the flag of a half just completed. While
Stopped the sample is dropped (R102). It has no response and never asks whether a PROCESS is in progress (R108). -/
def execPSample (v : Nat) (s : State) : Host.Outcome State Fault Refusal :=
  match s.run with
  | .stopped => .next s
  | .running =>
    match bufWrite s.wptr v s with
    | none => .fault (.outsideBuffer s.wptr)
    | some s1 => .next (raiseFlags (nextIndex s.params s.wptr) { s1 with wptr := nextIndex s.params s.wptr })

end Sys2Proof.Machine
end

