-- ==== Sys2Proof/Machine/Trigger.lean ====
section
/-!
DEFINITION. SET_TRIGGER, GET_TRIGGER_LEVEL and GET_TRIGGER_EDGE (45_trigger_config.md R190 to R195). Each is one atomic step.
-/

namespace Sys2Proof.Machine

/-- SET_TRIGGER level, edge (45_trigger_config.md R190, R191): both registers in one step, the level clamped. It may fall
inside a PROCESS (R195), so it does not ask whether one is in progress. Edge code 3 is reserved and never gets here: the
decoder rejects it (30_encoding.md R86). -/
def execSetTrigger (level : Int) (edge : Edge) (s : State) : Host.Outcome State Fault Refusal :=
  .next (respond .ok 0 (s.setTrig (clampLevel s.params level) edge))

/-- GET_TRIGGER_LEVEL (45_trigger_config.md R192): the stored, clamped level. -/
def execGetTriggerLevel (s : State) : Host.Outcome State Fault Refusal :=
  whenIdle s (.next (respond .ok s.trigLevel s))

/-- GET_TRIGGER_EDGE (45_trigger_config.md R193): the edge code of 30_encoding.md R83. -/
def execGetTriggerEdge (s : State) : Host.Outcome State Fault Refusal :=
  whenIdle s (.next (respond .ok s.trigEdge.code.toNat s))

end Sys2Proof.Machine
end

