-- ==== Sys2Proof/Machine/Dispatch.lean ====
section
/-!
DEFINITION. One arm per operation of spec/opcode_table.json.
-/

namespace Sys2Proof.Machine

/-- The atomic step an operation takes when it is delivered. -/
def exec (i : Instr) (s : State) : Host.Outcome State Fault Refusal :=
  match i with
  | .start => Sys2Proof.Machine.execStart s
  | .stop => Sys2Proof.Machine.execStop s
  | .isRunning => Sys2Proof.Machine.execIsRunning s
  | .process => Sys2Proof.Machine.execProcess s
  | .setTrigger level edge => Sys2Proof.Machine.execSetTrigger level edge s
  | .getTriggerLevel => Sys2Proof.Machine.execGetTriggerLevel s
  | .getTriggerEdge => Sys2Proof.Machine.execGetTriggerEdge s
  | .pSample v => Sys2Proof.Machine.execPSample v s

end Sys2Proof.Machine
end

