-- ==== Sys2Proof/Machine/Ports.lean ====
section
/-!
DEFINITION. The delivery of one port event (30_encoding.md R80): what `step` does with the head of the schedule.
-/

namespace Sys2Proof.Machine

/-- A word on the command port: its operation runs, a reserved word is answered ERR_ILLEGAL with no state change
(30_encoding.md R86, 60_exceptions.md R203, R206; notes/assumptions/10.md). -/
def takeCommand (w : Word) (s : State) : Host.Outcome State Fault Refusal :=
  match decode s.params.adcBits (.command w) with
  | .instr i => exec i s
  | .reserved _ => .next (reportError .errIllegal s)

/-- A word on the sample port is one P_SAMPLE (30_encoding.md R87). -/
def takeSample (w : SampleWord) (s : State) : Host.Outcome State Fault Refusal :=
  match decode s.params.adcBits (.sample w) with
  | .instr i => exec i s
  | .reserved _ => .refused .sampleWiderThanPort

/-- One event is delivered. The consumer's commands are serial; the controller's word may fall inside a PROCESS
(44_capture_driver.md R179, 45_trigger_config.md R195). -/
def deliver (e : Event) (s : State) : Host.Outcome State Fault Refusal :=
  match e with
  | .command .consumer w => whenIdle s (takeCommand w s)
  | .command .controller w => takeCommand w s
  | .sample w => takeSample w s
  | .arm level => .next { s with armPort := level }
  | .turn => processStep s

/-- The next atomic step of the whole: the head of the schedule, or, with nothing scheduled, the PROCESS in progress
(20_memory.md R59; notes/assumptions/5.md). -/
def runTurn (s : State) : Host.Outcome State Fault Refusal :=
  match s.inbox with
  | [] => processStep s
  | e :: rest => deliver e { s with inbox := rest }

end Sys2Proof.Machine
end

