-- ==== Sys2Proof/Machine/Step.lean ====
section
/-!
DEFINITION. One atomic step of the machine, and the placing of a word as the next event of its port.
-/

namespace Sys2Proof.Machine

/-- One atomic step (20_memory.md R59). A parameter set that fails 00_scope.md R7 is no configuration of this hardware. -/
def step (s : State) : Host.Outcome State Fault Refusal :=
  if s.params.valid then runTurn s else .refused .invalidParameters

/-- The word is the next event of its port: a command word comes from the consumer, a sample word is a strobe
(notes/assumptions/5.md, notes/assumptions/19.md). -/
def State.withFetchWord (s : State) (nbits w : Nat) : State :=
  { s with
    inbox :=
      (match portWordOf nbits w with
        | .command c => Event.command .consumer c
        | .sample v => Event.sample v) :: s.inbox }

end Sys2Proof.Machine
end

