-- ==== Sys2Proof/Machine/Pure.lean ====
section
/-!
DEFINITION. The pure functions of the spec: the search of a half that nobody writes (41_trigger_search.md R127), the window of a
buffer that nobody writes (42_window_mapper.md R145 (g)), and PROCESS with a quiet environment (44_capture_driver.md R174).
They are not the definition of PROCESS.
-/

namespace Sys2Proof.Machine

/-- The scan of the pairs `i`, `i + 1`, ... of half `h`, `n` pairs in all (41_trigger_search.md R121). -/
def scanPure (s : State) (h : Half) (lvl : Nat) (edg : Edge) : Nat → Nat → Option Nat
  | 0, _ => none
  | n + 1, i =>
    if crosses edg lvl (s.cell (halfBase s.params h + i)) (s.cell (halfBase s.params h + i + 1)) then some (i + 1)
    else scanPure s h lvl edg n (i + 1)

/-- `search_pure(BUF, base_h, start, lvl, edg)`: the pairs `start` to `HALF − 2` (41_trigger_search.md R127). -/
def searchPure (s : State) (h : Half) (start lvl : Nat) (edg : Edge) : Option Nat :=
  scanPure s h lvl edg (s.params.half - 1 - start) start

/-- `window_pure(BUF, T)` (42_window_mapper.md R145 (g)). -/
def windowPure (s : State) (T : Nat) : List Nat :=
  (List.range s.params.W).map fun c => yOf s.params (s.cell (windowIndex s.params T c))

/-- One half of `process_atomic` (44_capture_driver.md R174). -/
def handleAtomic (h : Half) (s : State) : State :=
  if s.flag h then
    match searchPure s h (s.cursor h) s.trigLevel s.trigEdge with
    | some r =>
      (emitFrame (windowPure s (halfBase s.params h + r)) (s.putFlag h false)).putCursor h (min (r + 1) (s.params.half - 1))
    | none => (s.putFlag h false).putCursor h 0
  else s

/-- `process_atomic(S)` (44_capture_driver.md R174); its `out` is appended to the outputs. -/
def processAtomic (s : State) : State :=
  match s.run with
  | .stopped => s
  | .running => handleAtomic .h1 (handleAtomic .h0 s)

end Sys2Proof.Machine
end

