-- ==== Sys2Proof/Machine/WeakProducer.lean ====
section
/-!
DEFINITION. The weaker producer of 40_sample_source.md R109, which rests on the contract of R100 alone: P_WRITE, P_RAISE_HALF and
P_RAISE_FULL. It stands beside the producer of R101, which `exec` runs (notes/assumptions/14.md).
-/

namespace Sys2Proof.Machine

/-- The block with what the weaker producer's enabling condition looks at: the cells written since HALF_FLAG was last set or
since START, and the same for FULL_FLAG (notes/assumptions/22.md). -/
structure WeakState where
  block : State
  sinceHalf : List Nat
  sinceFull : List Nat
  deriving DecidableEq, Repr

/-- The cells written since the flag of `h` was last set or since START. -/
def WeakState.since (w : WeakState) : Half → List Nat
  | .h0 => w.sinceHalf
  | .h1 => w.sinceFull

/-- Right after a START that armed, nothing has been written since. -/
def WeakState.atStart (s : State) : WeakState := ⟨s, [], []⟩

/-- `P_WRITE(k, v)`: any cell, any sample, while Running (40_sample_source.md R109). -/
def pWrite (k v : Nat) (w : WeakState) : Option WeakState :=
  if w.block.run = .running ∧ v ≤ w.block.params.maxSample then
    (bufWrite k v w.block).map fun s => ⟨s, k :: w.sinceHalf, k :: w.sinceFull⟩
  else none

/-- Every cell of half `h` has been written since its flag was last set or since START. -/
def allWritten (h : Half) (w : WeakState) : Bool :=
  (List.range w.block.params.L).all fun k => !inHalf w.block.params h k || (w.since h).contains k

/-- `P_RAISE_HALF` for H0 and `P_RAISE_FULL` for H1 (40_sample_source.md R109). -/
def pRaise (h : Half) (w : WeakState) : Option WeakState :=
  if w.block.run = .running ∧ allWritten h w then
    match h with
    | .h0 => some ⟨w.block.putFlag .h0 true, [], w.sinceFull⟩
    | .h1 => some ⟨w.block.putFlag .h1 true, w.sinceHalf, []⟩
  else none

end Sys2Proof.Machine
end

