-- ==== Sys2Proof/Safety.lean ====
section
/-!
DEFINITION. The words claims are stated in: runs, the invariant of the block (10_state.md R32), what was put out, and how many
atomic steps a PROCESS in progress still has (44_capture_driver.md R178).
-/

namespace Sys2Proof.Machine

/-- `n` atomic steps. -/
def run : Nat → State → Host.Outcome State Fault Refusal
  | 0, s => .next s
  | n + 1, s =>
    match step s with
    | .next t => run n t
    | .fault f => .fault f
    | .refused r => .refused r

/-- The samples `vs` are delivered one after the other, nothing in between. -/
def feed : List Nat → State → Host.Outcome State Fault Refusal
  | [], s => .next s
  | v :: vs, s =>
    match exec (.pSample v) s with
    | .next t => feed vs t
    | .fault f => .fault f
    | .refused r => .refused r

/-- How many of the first `n` turns of a schedule are the PROCESS's own; with nothing scheduled each turn is. -/
def turnsIn : Nat → List Event → Nat
  | 0, _ => 0
  | n + 1, [] => turnsIn n [] + 1
  | n + 1, .turn :: es => turnsIn n es + 1
  | n + 1, _ :: es => turnsIn n es

/-- The response words put out. -/
def State.responses (s : State) : List Word :=
  s.out.filterMap fun o =>
    match o with
    | .response w => some w
    | .frame _ => none

/-- The frames put out. -/
def State.frames (s : State) : List (List Nat) :=
  s.out.filterMap fun o =>
    match o with
    | .frame ys => some ys
    | .response _ => none

/-- A response has a status of 30_encoding.md R85 and zero bits where R85 says; a frame has exactly W values in
[0, WAVE_H − 1] (R89). -/
def OutputOk (p : Params) : Output → Prop
  | .response w => w.toNat / 2 ^ 28 ≤ 2 ∧ w.toNat / 2 ^ 16 % 2 ^ 12 = 0
  | .frame ys => ys.length = p.W ∧ ∀ y ∈ ys, y < p.waveH

/-- What holds of SEQ at each position (10_state.md R29, 41_trigger_search.md R126, 42_window_mapper.md R135, R137). -/
def SeqOk (s : State) : Prop :=
  match s.seq.phase with
  | .idle => True
  | .respond => True
  | .test _ => s.run = .running
  | .snap _ => s.run = .running
  | .search _ =>
    s.run = .running ∧ s.seq.i + 1 < s.params.half ∧ s.seq.edg ≠ .disabled ∧ s.seq.lvl ≤ s.params.maxSample ∧
      ∀ v, s.seq.prev = some v → v ≤ s.params.maxSample
  | .map h =>
    s.run = .running ∧ s.seq.col < s.params.W ∧
      (∃ r, s.seq.res = some r ∧ 1 ≤ r ∧ r < s.params.half ∧ s.seq.T = halfBase s.params h + r) ∧
      ∀ c y, c < s.seq.col → s.frame[c]? = some y → y < s.params.waveH
  | .emit _ =>
    s.run = .running ∧ (∃ r, s.seq.res = some r ∧ 1 ≤ r ∧ r < s.params.half) ∧ ∀ y ∈ s.frame, y < s.params.waveH
  | .commit _ => s.run = .running ∧ ∀ r, s.seq.res = some r → 1 ≤ r ∧ r < s.params.half

/-- The invariant: the ranges of 10_state.md R32, the canonical form of memory, the shape of FRAME (R28), the positions of SEQ,
and the outputs so far. -/
structure Inv (s : State) : Prop where
  valid : s.params.valid
  level : s.trigLevel ≤ s.params.maxSample
  cursors : ∀ h, s.cursor h < s.params.half
  wptr : s.wptr < s.params.L
  memWf : s.mem.wf
  memRange : ∀ e ∈ s.mem, e.1 < 2 * s.params.L
  cells : ∀ k, k < s.params.L → s.cell k ≤ s.params.maxSample
  frameLength : s.frame.length = s.params.W
  seqOk : SeqOk s
  outputs : ∀ o ∈ s.out, OutputOk s.params o

/-- The most atomic steps of one HANDLE(h): the flag test, the snapshot, the scan's reads, the window's reads, the emit and the
cursor write (44_capture_driver.md R178). -/
def handleSteps (p : Params) : Nat := 2 * (p.half - 1) + p.W + 4

/-- The most steps left after HANDLE(h). -/
def stepsAfter (p : Params) : Half → Nat
  | .h0 => handleSteps p + 1
  | .h1 => 1

/-- The most atomic steps the PROCESS in progress still takes (44_capture_driver.md R178). -/
def stepsLeft (s : State) : Nat :=
  match s.seq.phase with
  | .idle => 0
  | .respond => 1
  | .test h => stepsAfter s.params h + handleSteps s.params
  | .snap h => stepsAfter s.params h + (2 * (s.params.half - 1) + s.params.W + 3)
  | .search h =>
    stepsAfter s.params h + s.params.W + 2 +
      (if s.seq.prev = none then 2 * (s.params.half - 1 - s.seq.i) else 2 * (s.params.half - 1 - s.seq.i) - 1)
  | .map h => stepsAfter s.params h + (s.params.W - s.seq.col) + 2
  | .emit h => stepsAfter s.params h + 2
  | .commit h => stepsAfter s.params h + 1

/-- 1 for a completed half whose search is still to come or whose frame is still to be emitted. -/
def framesDue (s : State) : Nat :=
  s.halfFlag.toNat + s.fullFlag.toNat +
    match s.seq.phase with
    | .snap _ | .search _ | .map _ | .emit _ => 1
    | .idle | .test _ | .commit _ | .respond => 0

/-- 1 while a PROCESS has not responded yet. -/
def responsesDue (s : State) : Nat := if s.busy then 1 else 0

/-- The event the next step delivers is a sample that completes a half. -/
def completesHalf (s : State) : Prop :=
  s.run = .running ∧ (∃ w rest, s.inbox = .sample w :: rest) ∧
    (nextIndex s.params s.wptr = s.params.half ∨ nextIndex s.params s.wptr = 0)

/-- The reserved command words of 30_encoding.md R86, on the word as a number. -/
def ReservedWord (w : Word) : Prop :=
  w.toNat / 2 ^ 28 = 0 ∨ 8 ≤ w.toNat / 2 ^ 28 ∨ w.toNat / 2 ^ 18 % 2 ^ 10 ≠ 0 ∨
    (w.toNat / 2 ^ 28 ≠ 5 ∧ w.toNat % 2 ^ 18 ≠ 0) ∨ (w.toNat / 2 ^ 28 = 5 ∧ w.toNat / 2 ^ 16 % 2 ^ 2 = 3)

/-- The next event is the command word `w`. -/
def comesWord (s : State) (w : Word) : Prop := ∃ a rest, s.inbox = .command a w :: rest

/-- The next event is a sample. -/
def comesSample (s : State) : Prop := ∃ w rest, s.inbox = .sample w :: rest

/-- The next event is a turn of the PROCESS in progress. -/
def comesTurn (s : State) : Prop := s.inbox = [] ∨ ∃ rest, s.inbox = .turn :: rest

/-- SEQ stands inside HANDLE(h) (44_capture_driver.md R170). -/
def handling (h : Half) (s : State) : Prop :=
  s.seq.phase = .test h ∨ s.seq.phase = .snap h ∨ s.seq.phase = .search h ∨ s.seq.phase = .map h ∨ s.seq.phase = .emit h ∨
    s.seq.phase = .commit h

/-- The cells `prev` and `cur` cross the level in the direction of the edge, as 41_trigger_search.md R122 to R124 say it. -/
def Crossing (edg : Edge) (lvl prev cur : Nat) : Prop :=
  match edg with
  | .rising => prev < lvl ∧ cur ≥ lvl
  | .falling => prev > lvl ∧ cur ≤ lvl
  | .disabled => False

/-- The block `s` of the producer of 40_sample_source.md R101 and the block of the weaker producer agree: everything but WPTR is
equal, and the cells of the half being filled that lie before WPTR have been written since. -/
def Follows (s : State) (w : WeakState) : Prop :=
  { w.block with wptr := s.wptr } = s ∧
    ∀ h k, inHalf s.params h s.wptr → inHalf s.params h k → k < s.wptr → k ∈ w.since h

/-- Two states that differ at most in the five registers that START overwrites, and in those only while the block is Stopped
and no half is being handled (10_state.md R35). -/
def EqualToStart (s t : State) : Prop :=
  s = t ∨
    (s.run = .stopped ∧ (s.seq.phase = .idle ∨ s.seq.phase = .respond) ∧
      t = { s with cursor0 := t.cursor0, cursor1 := t.cursor1, halfFlag := t.halfFlag, fullFlag := t.fullFlag, wptr := t.wptr })

/-- Two sequencers at the same position that agree on the work values this position or a later one may read before it writes
them (10_state.md R29, R34). -/
def LiveSeqEqual (q r : Sequencer) : Prop :=
  q.phase = r.phase ∧
    match q.phase with
    | .idle => True
    | .respond => True
    | .test _ => True
    | .snap _ => True
    | .search _ => q.i = r.i ∧ q.prev = r.prev ∧ q.lvl = r.lvl ∧ q.edg = r.edg
    | .map _ => q.col = r.col ∧ q.T = r.T ∧ q.res = r.res
    | .emit _ => q.res = r.res
    | .commit _ => q.res = r.res

/-- Two FRAMEs agree on the entries that the mapping in progress has written; everywhere while a frame waits to be emitted. -/
def LiveFrameEqual (q : Sequencer) (f g : List Nat) : Prop :=
  match q.phase with
  | .map _ => f.length = g.length ∧ ∀ c, c < q.col → f[c]? = g[c]?
  | .emit _ => f = g
  | .idle => f.length = g.length
  | .test _ => f.length = g.length
  | .snap _ => f.length = g.length
  | .search _ => f.length = g.length
  | .commit _ => f.length = g.length
  | .respond => f.length = g.length

/-- Two states that differ at most in work values of SEQ and entries of FRAME that are dead (10_state.md R34,
93_implementation_defined.md U13). -/
def EqualButDead (s t : State) : Prop :=
  t = { s with seq := t.seq, frame := t.frame } ∧ LiveSeqEqual s.seq t.seq ∧ LiveFrameEqual s.seq s.frame t.frame

/-- Two answers of `step` are the same stop, or two next states that `R` relates. -/
def SameAnswer (R : State → State → Prop) : Host.Outcome State Fault Refusal → Host.Outcome State Fault Refusal → Prop
  | .next s, .next t => R s t
  | .fault f, .fault g => f = g
  | .refused f, .refused g => f = g
  | _, _ => False

end Sys2Proof.Machine
end

