-- ==== Sys2Proof/Certificates/Slice0/Obligations.lean ====
section
/-!
DEFINITION. The statements for the provers, in the order of OBLIGATIONS.json.
-/

section

open Sys2Proof Sys2Proof.Machine

/-! ### Encoding -/

/-- R93: the words the spec writes out, commands, reserved words and responses. -/
def Obligations.EncodingExamplesDecode : Prop :=
  (decodeCommand 0x10000000 = .instr .start ∧ decodeCommand 0x20000000 = .instr .stop ∧
    decodeCommand 0x30000000 = .instr .isRunning ∧ decodeCommand 0x40000000 = .instr .process ∧
    decodeCommand 0x50010064 = .instr (.setTrigger 100 .rising) ∧
    decodeCommand 0x50020064 = .instr (.setTrigger 100 .falling) ∧
    decodeCommand 0x50000000 = .instr (.setTrigger 0 .disabled) ∧
    decodeCommand 0x5001FFFB = .instr (.setTrigger (-5) .rising) ∧
    decodeCommand 0x50021388 = .instr (.setTrigger 5000 .falling) ∧
    decodeCommand 0x60000000 = .instr .getTriggerLevel ∧ decodeCommand 0x70000000 = .instr .getTriggerEdge) ∧
  (decodeCommand 0x00000000 = .reserved .opcode ∧ decodeCommand 0x80000000 = .reserved .opcode ∧
    decodeCommand 0x10000001 = .reserved .operandBits ∧ decodeCommand 0x50030064 = .reserved .edgeCode ∧
    decodeCommand 0x54010064 = .reserved .reservedBits) ∧
  (responseWord .ok 0 = 0x00000000 ∧ responseWord .ok 1 = 0x00000001 ∧ responseWord .ok 4095 = 0x00000FFF ∧
    responseWord .ok Edge.falling.code.toNat = 0x00000002 ∧ responseWord .errHardware 0 = 0x10000000 ∧
    responseWord .errIllegal 0 = 0x20000000)

/-- R81 to R84, R87: no bit of an encoding is dropped. Every well-formed operation, with every operand value its word admits,
on a block of every sample width. -/
def Obligations.DecodeOfEncodeIsIdentity : Prop :=
  ∀ (n : Nat) (i : Instr), n ≤ 15 → i.WellFormed n → decode n (encode i) = .instr i

/-- R81, R82: each word of either port has one meaning. -/
def Obligations.EncodeOfDecodeIsIdentity : Prop :=
  ∀ (n : Nat) (w : PortWord) (i : Instr), decode n w = .instr i → i.WellFormed n ∧ encode i = w

/-- R86, R203: a command word is an operation exactly when it is not reserved; a reserved word changes no state, emits no frame
and is answered ERR_ILLEGAL. That the model runs a reserved word by this rule and does not refuse it is log entry 10. -/
def Obligations.ReservedWordIsAnsweredIllegal : Prop :=
  (∀ w : Word, ReservedWord w ↔ ∃ r, decodeCommand w = .reserved r) ∧
  ∀ (s : State) (a : Agent) (w : Word) (rest : List Event), s.params.valid → s.inbox = .command a w :: rest →
    (a = .consumer → s.seq.phase = .idle) → ReservedWord w →
    step s = .next { s with inbox := rest, out := s.out ++ [.response 0x20000000] }

/-! ### Steps and ports -/

/-- R59, R80, R87, R195: a step delivers the head of the schedule; a word that decodes to an operation is executed. The schedule
itself is log entry 5, the placing of a word log entry 19. -/
def Obligations.StepRunsTheDeliveredWord : Prop :=
  ∀ (s : State) (rest : List Event), s.params.valid →
    (∀ w i, s.inbox = .command .consumer w :: rest → s.seq.phase = .idle →
      decode s.params.adcBits (.command w) = .instr i → step s = exec i { s with inbox := rest }) ∧
    (∀ w i, s.inbox = .command .controller w :: rest →
      decode s.params.adcBits (.command w) = .instr i → step s = exec i { s with inbox := rest }) ∧
    (∀ w i, s.inbox = .sample w :: rest →
      decode s.params.adcBits (.sample w) = .instr i → step s = exec i { s with inbox := rest }) ∧
    (∀ b, s.inbox = .arm b :: rest → step s = .next { s with inbox := rest, armPort := b }) ∧
    (s.inbox = .turn :: rest → step s = processStep { s with inbox := rest }) ∧
    (s.inbox = [] → step s = processStep s) ∧
    (∀ nbits w i, s.seq.phase = .idle → decode s.params.adcBits (portWordOf nbits w) = .instr i →
      step (s.withFetchWord nbits w) = exec i s)

/-- R179: commands of the consumer are serial. While a PROCESS is in progress a second consumer command is refused, and so is
every operation of the command port but SET_TRIGGER; the controller's SET_TRIGGER is a single atomic step. -/
def Obligations.CommandsAreSerial : Prop :=
  ∀ (s : State) (rest : List Event) (w : Word), s.params.valid → s.seq.phase ≠ .idle →
    (s.inbox = .command .consumer w :: rest → step s = .refused .commandDuringProcess) ∧
    (∀ i, i = .start ∨ i = .stop ∨ i = .isRunning ∨ i = .process ∨ i = .getTriggerLevel ∨ i = .getTriggerEdge →
      exec i s = .refused .commandDuringProcess) ∧
    (∀ level edge, s.inbox = .command .controller w :: rest → decodeCommand w = .instr (.setTrigger level edge) →
      ∃ t, step s = .next t ∧ t.seq = s.seq ∧ t.out = s.out ++ [.response 0x00000000])

/-- R7, R231: the parameters are checked at construction, and a set that fails is refused, by construction and by every step. -/
def Obligations.InvalidParametersAreRefused : Prop :=
  ∀ p : Params,
    ((1 ≤ p.adcBits ∧ p.adcBits ≤ 15 ∧ p.L % 2 = 0 ∧ 2 ≤ p.L ∧ 1 ≤ p.W ∧ 1 ≤ p.waveH ∧ p.resetLevel < 2 ^ p.adcBits) →
      construct p = .next (State.resetWith p)) ∧
    (¬ (1 ≤ p.adcBits ∧ p.adcBits ≤ 15 ∧ p.L % 2 = 0 ∧ 2 ≤ p.L ∧ 1 ≤ p.W ∧ 1 ≤ p.waveH ∧ p.resetLevel < 2 ^ p.adcBits) →
      construct p = .refused .invalidParameters ∧ ∀ s : State, s.params = p → step s = .refused .invalidParameters)

/-- R34: the reset state, for every parameter set; each cell holds some value in [0, MAX_SAMPLE]. -/
def Obligations.ResetState : Prop :=
  ∀ p : Params, p.valid →
    (State.resetWith p).run = .stopped ∧ (State.resetWith p).halfFlag = false ∧ (State.resetWith p).fullFlag = false ∧
    (State.resetWith p).cursor0 = 0 ∧ (State.resetWith p).cursor1 = 0 ∧ (State.resetWith p).wptr = 0 ∧
    (State.resetWith p).seq.phase = .idle ∧ (State.resetWith p).trigLevel = p.resetLevel ∧
    (State.resetWith p).trigEdge = p.resetEdge ∧ ∀ k, k < p.L → (State.resetWith p).cell k ≤ p.maxSample

/-! ### START, STOP, IS_RUNNING -/

/-- R166: the word of START, and its three cases with everything it leaves alone. That it is one atomic step is the spec's decision
D16. -/
def Obligations.StartArmsOrReports : Prop :=
  decodeCommand 0x10000000 = .instr .start ∧
  ∀ s : State, s.seq.phase = .idle →
    (s.run = .running → exec .start s = .next { s with out := s.out ++ [.response 0x00000000] }) ∧
    (s.run = .stopped → s.armPort = false → exec .start s = .next { s with out := s.out ++ [.response 0x10000000] }) ∧
    (s.run = .stopped → s.armPort = true →
      exec .start s =
        .next
          { s with
            wptr := 0
            cursor0 := 0
            cursor1 := 0
            halfFlag := false
            fullFlag := false
            run := .running
            out := s.out ++ [.response 0x00000000] })

/-- R167: the word of STOP; STOP makes RUN Stopped, answers OK and touches nothing else, from either run state. -/
def Obligations.StopHaltsAndKeepsTheRest : Prop :=
  decodeCommand 0x20000000 = .instr .stop ∧
  ∀ s : State, s.seq.phase = .idle →
    exec .stop s = .next { s with run := .stopped, out := s.out ++ [.response 0x00000000] }

/-- R168: the word of IS_RUNNING; it answers 1 or 0 and changes nothing. -/
def Obligations.IsRunningReportsRun : Prop :=
  decodeCommand 0x30000000 = .instr .isRunning ∧
  ∀ s : State, s.seq.phase = .idle →
    exec .isRunning s =
      .next { s with out := s.out ++ [.response (if s.run = .running then 0x00000001 else 0x00000000)] }

/-! ### SET_TRIGGER and the getters -/

/-- R190, R191: the words of SET_TRIGGER; it stores the clamped level and the edge in one step, in either run state and inside a PROCESS too, and
touches nothing else; the word with edge code 3 changes nothing and is answered ERR_ILLEGAL. -/
def Obligations.SetTriggerStoresClampedPair : Prop :=
  (∀ (edge : Edge) (level : BitVec 16),
    decodeCommand (commandWord 5 edge.code level) = .instr (.setTrigger (sext16 level) edge)) ∧
  (∀ (s : State) (level : Int) (edge : Edge),
    exec (.setTrigger level edge) s =
      .next
        { s with
          trigLevel :=
            if level < 0 then 0
            else if (2 ^ s.params.adcBits - 1 : Nat) < level then 2 ^ s.params.adcBits - 1
            else level.toNat
          trigEdge := edge
          out := s.out ++ [.response 0x00000000] }) ∧
  ∀ (s : State) (a : Agent) (level : BitVec 16) (rest : List Event), s.params.valid →
    s.inbox = .command a (commandWord 5 3 level) :: rest → (a = .consumer → s.seq.phase = .idle) →
    step s = .next { s with inbox := rest, out := s.out ++ [.response 0x20000000] }

/-- R192: the word of GET_TRIGGER_LEVEL; it answers the stored level and changes nothing; after reset that is RESET_LEVEL. -/
def Obligations.GetTriggerLevelReadsStoredLevel : Prop :=
  decodeCommand 0x60000000 = .instr .getTriggerLevel ∧
  (∀ s : State, s.params.valid → s.trigLevel ≤ s.params.maxSample → s.seq.phase = .idle →
    exec .getTriggerLevel s = .next { s with out := s.out ++ [.response (BitVec.ofNat 32 s.trigLevel)] }) ∧
  ∀ p : Params, p.valid →
    exec .getTriggerLevel (State.resetWith p) =
      .next { State.resetWith p with out := [.response (BitVec.ofNat 32 p.resetLevel)] }

/-- R193, R83: the word of GET_TRIGGER_EDGE; it answers the edge code and changes nothing; after reset that is the code of
RESET_EDGE. -/
def Obligations.GetTriggerEdgeReadsStoredEdge : Prop :=
  decodeCommand 0x70000000 = .instr .getTriggerEdge ∧
  (∀ p : Params, p.valid →
    exec .getTriggerEdge (State.resetWith p) =
      .next { State.resetWith p with out := [.response (BitVec.ofNat 32 p.resetEdge.code.toNat)] }) ∧
  ∀ s : State, s.seq.phase = .idle →
    (s.trigEdge = .disabled → exec .getTriggerEdge s = .next { s with out := s.out ++ [.response 0x00000000] }) ∧
    (s.trigEdge = .rising → exec .getTriggerEdge s = .next { s with out := s.out ++ [.response 0x00000001] }) ∧
    (s.trigEdge = .falling → exec .getTriggerEdge s = .next { s with out := s.out ++ [.response 0x00000002] })

/-! ### P_SAMPLE -/

/-- R101: P_SAMPLE while Running writes the one cell at WPTR, advances WPTR with wrap, sets HALF_FLAG after cell HALF − 1 and
FULL_FLAG after cell L − 1, keeps a flag that is 1, and changes nothing else: no other byte of the buffer, no other field. -/
def Obligations.PSampleWritesAdvancesAndFlags : Prop :=
  ∀ (s : State) (v : Nat), s.params.valid → s.run = .running → s.wptr < s.params.L → v ≤ s.params.maxSample →
    ∃ m : Memory,
      exec (.pSample v) s =
        .next
          { s with
            mem := m
            wptr := if s.wptr + 1 = s.params.L then 0 else s.wptr + 1
            halfFlag := s.halfFlag || decide (s.wptr + 1 = s.params.L / 2)
            fullFlag := s.fullFlag || decide (s.wptr + 1 = s.params.L) } ∧
      ({ s with mem := m } : State).cell s.wptr = v ∧
      (∀ k, k ≠ s.wptr → ({ s with mem := m } : State).cell k = s.cell k) ∧
      ∀ a, a ≠ 2 * s.wptr → a ≠ 2 * s.wptr + 1 → m.read a = s.mem.read a

/-- R102: while Stopped a sample is dropped; the first sample after a START that armed goes to cell 0. -/
def Obligations.StoppedSampleIsDroppedRestartAtCellZero : Prop :=
  (∀ (s : State) (v : Nat), s.run = .stopped → exec (.pSample v) s = .next s) ∧
  ∀ (s : State) (v : Nat), s.params.valid → v ≤ s.params.maxSample → s.seq.phase = .idle → s.run = .stopped →
    s.armPort = true →
    ∃ t u, exec .start s = .next t ∧ exec (.pSample v) t = .next u ∧ u.cell 0 = v ∧ ∀ k, k ≠ 0 → u.cell k = s.cell k

/-- R55 (the spec's byte view): after P_SAMPLE the cell's halfword is little-endian at byte 2k, the sample in its low ADC_BITS
bits and zero above. That the model's memory is this byte view is log entry 3. -/
def Obligations.SampleLiesLittleEndian : Prop :=
  ∀ (s t : State) (v : Nat), s.params.valid → s.run = .running → v ≤ s.params.maxSample →
    exec (.pSample v) s = .next t →
    ∃ lo hi : Byte, t.mem.read (2 * s.wptr) = some lo ∧ t.mem.read (2 * s.wptr + 1) = some hi ∧
      lo.toNat + 256 * hi.toNat = v ∧ (lo.toNat + 256 * hi.toNat) / 2 ^ s.params.adcBits = 0

/-- R106: from a START on, the k-th sample goes to cell (k − 1) emod L, WPTR counts the samples modulo L, the flags are set by
the steps with number HALF and L modulo L and by no other, nothing else of the state changes. -/
def Obligations.FillFollowsTheContract : Prop :=
  ∀ (s : State) (vs : List Nat), s.params.valid → s.run = .running → s.wptr = 0 → (∀ v ∈ vs, v ≤ s.params.maxSample) →
    ∃ t, feed vs s = .next t ∧
      t = { s with mem := t.mem, wptr := vs.length % s.params.L,
                   halfFlag := s.halfFlag || decide (s.params.half ≤ vs.length),
                   fullFlag := s.fullFlag || decide (s.params.L ≤ vs.length) } ∧
      (∀ j v, vs[j]? = some v → vs.length ≤ j + s.params.L → t.cell (j % s.params.L) = v) ∧
      (∀ k, vs.length ≤ k → t.cell k = s.cell k) ∧
      (∀ v u, exec (.pSample v) t = .next u →
        u.halfFlag = (t.halfFlag || decide ((vs.length + 1) % s.params.L = s.params.half)) ∧
        u.fullFlag = (t.fullFlag || decide ((vs.length + 1) % s.params.L = 0)))

/-- R103, R209: a completion whose flag is already 1 is lost without a trace: the step gives the state it would have given had
the flag been 0. -/
def Obligations.LostSignalLeavesNoTrace : Prop :=
  ∀ (s : State) (v : Nat) (h : Half), s.params.valid → s.run = .running → s.wptr < s.params.L →
    (match h with
      | .h0 => s.wptr + 1 = s.params.half
      | .h1 => s.wptr + 1 = s.params.L) →
    ∃ t, exec (.pSample v) (s.putFlag h false) = .next t ∧ exec (.pSample v) (s.putFlag h true) = .next t ∧ t.flag h = true

/-- R109: every step of the producer of R101 is one or two steps of the weaker producer, which stays in agreement; the two agree
right after a START. -/
def Obligations.WeakerProducerFollows : Prop :=
  (∀ s t : State, s.params.valid → s.seq.phase = .idle → s.run = .stopped → exec .start s = .next t → t.run = .running →
    Follows t (WeakState.atStart t)) ∧
  ∀ (s t : State) (w : WeakState) (v : Nat), s.params.valid → s.run = .running → s.wptr < s.params.L →
    v ≤ s.params.maxSample → Follows s w → exec (.pSample v) s = .next t →
    ∃ w1, pWrite s.wptr v w = some w1 ∧ (Follows t w1 ∨ ∃ h w2, pRaise h w1 = some w2 ∧ Follows t w2)

/-! ### PROCESS, step by step -/

/-- R169: the word of PROCESS; its first atomic step reads RUN; while Running it goes on to the test of HALF_FLAG. The completion of the
whole command is QuietProcessIsProcessAtomic. -/
def Obligations.ProcessReadsRunFirst : Prop :=
  decodeCommand 0x40000000 = .instr .process ∧
  ∀ s : State, s.seq.phase = .idle → s.run = .running →
    exec .process s = .next { s with seq := { s.seq with phase := .test .h0 } }

/-- R175: PROCESS while Stopped answers OK and does nothing else; RUN cannot change while a PROCESS is in progress. -/
def Obligations.ProcessWhileStoppedOnlyAnswers : Prop :=
  (∀ s : State, s.seq.phase = .idle → s.run = .stopped →
    exec .process s = .next { s with seq := { s.seq with phase := .respond } } ∧
    processStep { s with seq := { s.seq with phase := .respond } } =
      .next { s with out := s.out ++ [.response 0x00000000] }) ∧
  ∀ s t : State, s.seq.phase ≠ .idle → step s = .next t → t.run = s.run

/-- R62, R170: Test_h reads the half's flag and leaves it 0 in one step; a half whose flag was 0 is not handled, and nothing of
it changes. -/
def Obligations.FlagIsTestedAndClearedInOneStep : Prop :=
  ∀ s : State,
    (s.seq.phase = .test .h0 → s.halfFlag = true →
      processStep s = .next { s with halfFlag := false, seq := { s.seq with phase := .snap .h0 } }) ∧
    (s.seq.phase = .test .h0 → s.halfFlag = false →
      processStep s = .next { s with seq := { s.seq with phase := .test .h1 } }) ∧
    (s.seq.phase = .test .h1 → s.fullFlag = true →
      processStep s = .next { s with fullFlag := false, seq := { s.seq with phase := .snap .h1 } }) ∧
    (s.seq.phase = .test .h1 → s.fullFlag = false →
      processStep s = .next { s with seq := { s.seq with phase := .respond } })

/-- R30, R120, R121: Snap_h takes the pair (TRIG_LEVEL, TRIG_EDGE) and starts the scan at the half's cursor; an empty scan and
the edge Disabled are NotFound at once. -/
def Obligations.SnapshotStartsTheScanAtTheCursor : Prop :=
  ∀ (s : State) (h : Half), s.seq.phase = .snap h →
    (s.cursor h + 1 < s.params.half → s.trigEdge ≠ .disabled →
      processStep s =
        .next
          { s with
            seq :=
              { s.seq with
                phase := .search h, i := s.cursor h, prev := none, lvl := s.trigLevel, edg := s.trigEdge } }) ∧
    (¬ (s.cursor h + 1 < s.params.half ∧ s.trigEdge ≠ .disabled) →
      processStep s =
        .next
          { s with
            seq := { s.seq with phase := .commit h, prev := none, res := none, lvl := s.trigLevel, edg := s.trigEdge } })

/-- R121, R137: Search_h reads the pair's first cell and then its second, each afresh; a crossing ends the scan in Found (i + 1)
with T = base + i + 1, no crossing moves it to the next pair, and after pair HALF − 2 it ends in NotFound. -/
def Obligations.ScanReadsPairsAfresh : Prop :=
  ∀ (s : State) (h : Half), s.params.valid → s.seq.phase = .search h → s.seq.i + 1 < s.params.half →
    s.seq.edg ≠ .disabled →
    (s.seq.prev = none →
      processStep s = .next { s with seq := { s.seq with prev := some (s.cell (halfBase s.params h + s.seq.i)) } }) ∧
    (∀ v, s.seq.prev = some v →
      (Crossing s.seq.edg s.seq.lvl v (s.cell (halfBase s.params h + s.seq.i + 1)) →
        processStep s =
          .next
            { s with
              seq :=
                { s.seq with
                  phase := .map h, prev := none, res := some (s.seq.i + 1), col := 0,
                  T := halfBase s.params h + (s.seq.i + 1) } }) ∧
      (¬ Crossing s.seq.edg s.seq.lvl v (s.cell (halfBase s.params h + s.seq.i + 1)) → s.seq.i + 2 < s.params.half →
        processStep s = .next { s with seq := { s.seq with i := s.seq.i + 1, prev := none } }) ∧
      (¬ Crossing s.seq.edg s.seq.lvl v (s.cell (halfBase s.params h + s.seq.i + 1)) → s.params.half ≤ s.seq.i + 2 →
        processStep s = .next { s with seq := { s.seq with phase := .commit h, prev := none, res := none } }))

/-- R135, R138 to R141: Map_h reads one cell, the one the index formula names, and writes one entry of FRAME, scaled and clamped;
after column W − 1 the frame is complete. That the scale and the store belong to the step of the column's read is log entry 8. -/
def Obligations.ColumnIsReadScaledAndStored : Prop :=
  ∀ (s : State) (h : Half), s.params.valid → s.seq.phase = .map h → s.seq.col < s.params.W →
    ∃ k y : Nat, (k : Int) = ((s.seq.T : Int) - (s.params.W / 4 : Nat) + s.seq.col) % (s.params.L : Int) ∧
      (y : Int) =
        min (max ((s.params.waveH : Int) - (s.cell k * s.params.waveH / (2 ^ s.params.adcBits - 1) : Nat)) 0)
          ((s.params.waveH : Int) - 1) ∧
      (s.seq.col + 1 < s.params.W →
        processStep s =
          .next { s with frame := s.frame.set s.seq.col y, seq := { s.seq with col := s.seq.col + 1 } }) ∧
      (s.seq.col + 1 = s.params.W →
        processStep s = .next { s with frame := s.frame.set s.seq.col y, seq := { s.seq with phase := .emit h } })

/-- R155, R170 to R172: the frame goes out whole in one step; then the cursor becomes min(r + 1, HALF − 1) after Found r and 0
after NotFound; after H0 the test of H1 follows, after H1 the response OK, which ends the command. -/
def Obligations.EmitCommitAndRespond : Prop :=
  ∀ s : State,
    (∀ h, s.seq.phase = .emit h →
      processStep s = .next { s with out := s.out ++ [.frame s.frame], seq := { s.seq with phase := .commit h } }) ∧
    (s.seq.phase = .commit .h0 → (∀ r, s.seq.res = some r →
        processStep s =
          .next { s with cursor0 := min (r + 1) (s.params.L / 2 - 1), seq := { s.seq with phase := .test .h1 } }) ∧
      (s.seq.res = none → processStep s = .next { s with cursor0 := 0, seq := { s.seq with phase := .test .h1 } })) ∧
    (s.seq.phase = .commit .h1 → (∀ r, s.seq.res = some r →
        processStep s =
          .next { s with cursor1 := min (r + 1) (s.params.L / 2 - 1), seq := { s.seq with phase := .respond } }) ∧
      (s.seq.res = none → processStep s = .next { s with cursor1 := 0, seq := { s.seq with phase := .respond } })) ∧
    (s.seq.phase = .respond →
      processStep s = .next { s with out := s.out ++ [.response 0x00000000], seq := { s.seq with phase := .idle } })

/-- R36: what PROCESS writes: the flags, the cursors, FRAME, SEQ and its outputs. RUN, the trigger configuration, WPTR, every byte
of the buffer, the parameters and the ports stay. -/
def Obligations.ProcessStepFrame : Prop :=
  ∀ s t : State, processStep s = .next t →
    t = { s with halfFlag := t.halfFlag, fullFlag := t.fullFlag, cursor0 := t.cursor0, cursor1 := t.cursor1,
                 frame := t.frame, seq := t.seq, out := t.out } ∧
    (∀ a, t.mem.read a = s.mem.read a) ∧ (t.halfFlag = true → s.halfFlag = true) ∧ (t.fullFlag = true → s.fullFlag = true)

/-! ### SEARCH and MAPWINDOW -/

/-- R126, R127: the search of a half that nobody writes returns the smallest r in start + 1 .. HALF − 1 at which the edge's
crossing ends, and NotFound exactly when there is none. -/
def Obligations.SearchFindsTheFirstCrossing : Prop :=
  ∀ (s : State) (h : Half) (start lvl : Nat) (edg : Edge),
    (∀ r, searchPure s h start lvl edg = some r ↔
      (start + 1 ≤ r ∧ r < s.params.half ∧
        Crossing edg lvl (s.cell (halfBase s.params h + (r - 1))) (s.cell (halfBase s.params h + r)) ∧
        ∀ q, start + 1 ≤ q → q < r →
          ¬ Crossing edg lvl (s.cell (halfBase s.params h + (q - 1))) (s.cell (halfBase s.params h + q)))) ∧
    (searchPure s h start lvl edg = none ↔
      ∀ q, start + 1 ≤ q → q < s.params.half →
        ¬ Crossing edg lvl (s.cell (halfBase s.params h + (q - 1))) (s.cell (halfBase s.params h + q)))

/-- R129: a search that starts at the cursor a hit at r left never returns r again, whatever the buffer, level and edge are; from
the cursor HALF − 1 the scan is empty. -/
def Obligations.CursorPreventsRefind : Prop :=
  ∀ (s : State) (h : Half) (r lvl : Nat) (edg : Edge), r < s.params.half →
    (∀ q, searchPure s h (min (r + 1) (s.params.half - 1)) lvl edg = some q → r < q) ∧
    (r = s.params.half - 1 → searchPure s h (min (r + 1) (s.params.half - 1)) lvl edg = none)

/-- R124, R128 (a), (b), (e), (f): Disabled never hits, Rising at level 0 never hits, Falling at MAX_SAMPLE never hits, a constant
half never hits, and the search looks at no cell outside its half. -/
def Obligations.SearchCornerCases : Prop :=
  ∀ (s : State) (h : Half) (start : Nat), s.params.valid → (∀ k, k < s.params.L → s.cell k ≤ s.params.maxSample) →
    (∀ lvl, searchPure s h start lvl .disabled = none) ∧
    searchPure s h start 0 .rising = none ∧
    searchPure s h start s.params.maxSample .falling = none ∧
    (∀ lvl edg c, (∀ k, inHalf s.params h k = true → s.cell k = c) → searchPure s h start lvl edg = none) ∧
    (∀ (t : State) lvl edg, t.params = s.params → (∀ k, inHalf s.params h k = true → t.cell k = s.cell k) →
      searchPure t h start lvl edg = searchPure s h start lvl edg)

/-- R138: the index formula with the document's two truncating remainders is the model's, in range and congruent for every
trigger and column; column LEAD reads the trigger cell; the document's example. -/
def Obligations.WindowIndexIsTrueModulo : Prop :=
  (∀ L lead T c : Nat, 0 < L →
    (windowIndexAt L lead T c : Int) = (((T : Int) - lead + c).tmod L + L).tmod L ∧ windowIndexAt L lead T c < L ∧
      ∃ q : Int, (T : Int) - lead + c = q * L + windowIndexAt L lead T c) ∧
  (∀ (p : Params) (T : Nat), p.valid → T < p.L → windowIndex p T (p.W / 4) = T) ∧
  (List.range 8).map (windowIndexAt 16 4 2) = [14, 15, 0, 1, 2, 3, 4, 5]

/-- R140 to R142: the scale on samples in range: the quotient's range, the one case where the clamp acts, the two ends, and the
inverted orientation. -/
def Obligations.ScaleIsInvertedAndClamped : Prop :=
  ∀ (p : Params) (v : Nat), p.valid → v ≤ p.maxSample →
    (0 ≤ yRaw p v ∧ yRaw p v ≤ p.waveH) ∧
    yRaw p v = (p.waveH : Int) - (v * p.waveH / p.maxSample : Nat) ∧
    (v * p.waveH < p.maxSample → yOf p v = p.waveH - 1) ∧
    (p.maxSample ≤ v * p.waveH → (yOf p v : Int) = yRaw p v) ∧
    yOf p v < p.waveH ∧
    yOf p 0 = p.waveH - 1 ∧ yOf p p.maxSample = 0 ∧
    ∀ u, u ≤ v → yOf p v ≤ yOf p u

/-! ### The whole machine -/

/-- R174: a PROCESS that nothing interrupts ends, within the bound of R178, in the state `process_atomic` gives, its frames put
out in order and the response OK after them; only the dead work values of SEQ and FRAME are not said. -/
def Obligations.QuietProcessIsProcessAtomic : Prop :=
  ∀ s : State, Inv s → s.seq.phase = .idle → s.inbox = [] →
    ∃ s0 n t, exec .process s = .next s0 ∧ n ≤ 1 + 2 * (2 * (s.params.half - 1) + s.params.W + 4) ∧
      run n s0 = .next t ∧ t.seq.phase = .idle ∧
      t = { processAtomic s with
            seq := t.seq, frame := t.frame, out := (processAtomic s).out ++ [.response 0x00000000] }

/-- R178: in every schedule, while a PROCESS lasts it has taken fewer atomic steps of its own than
2 + 2 × (2 × (HALF − 1) + W + 4), the read of RUN included; and its next step never waits for another agent. -/
def Obligations.ProcessEndsWithinItsBound : Prop :=
  (∀ (s s0 t : State) (n : Nat), Inv s → exec .process s = .next s0 → run n s0 = .next t →
    (∀ m u, m ≤ n → run m s0 = .next u → u.seq.phase ≠ .idle) →
    1 + turnsIn n s0.inbox < 2 + 2 * (2 * (s.params.half - 1) + s.params.W + 4)) ∧
  ∀ s : State, Inv s → s.seq.phase ≠ .idle → ∃ t, processStep s = .next t ∧ t.seq ≠ s.seq

/-- R127: when no producer step writes into the half from its snapshot to the end of its search (70_reset_and_hazards.md R241,
NORMAL_OP, implies it), whatever else the schedule holds, the search ends in the result of the pure search of the half as it stood
at the snapshot. What the half holds then, one fill or a mixture, is not said. -/
def Obligations.UninterruptedSearchReturnsFirstCrossing : Prop :=
  ∀ (s t : State) (h : Half) (n : Nat), Inv s → s.seq.phase = .snap h → run n s = .next t →
    (∀ m u, m < n → run m s = .next u →
      (inHalf u.params h u.wptr = true → ¬ comesSample u) ∧ (u.seq.phase = .snap h ∨ u.seq.phase = .search h)) →
    t.seq.phase = .map h ∨ t.seq.phase = .commit h →
    t.seq.res = searchPure s h (s.cursor h) t.seq.lvl t.seq.edg

/-- R177, R103: a frame needs a completed half: frames put out and frames due together grow only by a P_SAMPLE that completes a
half, and then by at most one. -/
def Obligations.EachFrameNeedsACompletedHalf : Prop :=
  ∀ s t : State, step s = .next t →
    (completesHalf s → t.frames.length + framesDue t ≤ s.frames.length + framesDue s + 1) ∧
    (¬ completesHalf s → t.frames.length + framesDue t ≤ s.frames.length + framesDue s)

/-- R173, R210: while H0 is handled FULL_FLAG is never cleared and H1 is not begun before H0 has ended; while H1 is handled
HALF_FLAG is never cleared. -/
def Obligations.HalfZeroIsServedFirst : Prop :=
  ∀ s t : State, step s = .next t →
    (handling .h0 s → (s.fullFlag = true → t.fullFlag = true) ∧ (handling .h0 t ∨ t.seq.phase = .test .h1)) ∧
    (handling .h1 s → (s.halfFlag = true → t.halfFlag = true) ∧ (handling .h1 t ∨ t.seq.phase = .respond))

/-- R165, R21: RUN starts Stopped; it becomes Running only by a START word with the arm port at 1, and Stopped only by a STOP
word. -/
def Obligations.RunChangesOnlyByStartAndStop : Prop :=
  (∀ p : Params, (State.resetWith p).run = .stopped) ∧
  ∀ s t : State, step s = .next t →
    (s.run = .stopped → t.run = .running → comesWord s 0x10000000 ∧ s.armPort = true) ∧
    (s.run = .running → t.run = .stopped → comesWord s 0x20000000)

/-- R22, R23, R165: the trigger configuration changes only by a SET_TRIGGER word, which then is the whole effect on it. -/
def Obligations.TriggerChangesOnlyBySetTrigger : Prop :=
  ∀ s t : State, step s = .next t → t.trigLevel ≠ s.trigLevel ∨ t.trigEdge ≠ s.trigEdge →
    ∃ w level edge, comesWord s w ∧ decodeCommand w = .instr (.setTrigger level edge) ∧
      t.trigLevel = clampLevel s.params level ∧ t.trigEdge = edge

/-- R27, R52, R56: only a sample that arrives while Running changes the buffer or moves WPTR, but for the START that sets WPTR to
0; it changes the cell at WPTR and no other. -/
def Obligations.OnlyTheProducerWritesTheBuffer : Prop :=
  ∀ s t : State, step s = .next t →
    (t.mem ≠ s.mem → comesSample s ∧ s.run = .running) ∧
    (∀ k, k ≠ s.wptr → t.cell k = s.cell k) ∧
    (t.wptr ≠ s.wptr → (comesSample s ∧ s.run = .running) ∨ (comesWord s 0x10000000 ∧ s.run = .stopped ∧ t.wptr = 0))

/-- R24: a cursor changes only by the commit of its own half or by a START from Stopped, which makes it 0. -/
def Obligations.CursorChangesOnlyAtCommitOrStart : Prop :=
  ∀ (s t : State) (h : Half), step s = .next t → t.cursor h ≠ s.cursor h →
    (comesTurn s ∧ s.seq.phase = .commit h) ∨ (comesWord s 0x10000000 ∧ s.run = .stopped ∧ t.cursor h = 0)

/-- R25, R209: a flag is set only by the P_SAMPLE that completes its half, and cleared only by the test of its half or by a
START from Stopped. -/
def Obligations.FlagsAreSetByFillsOnly : Prop :=
  ∀ (s t : State) (h : Half), s.wptr < s.params.L → step s = .next t →
    (s.flag h = false → t.flag h = true →
      comesSample s ∧ s.run = .running ∧
        s.wptr + 1 = (match h with
          | .h0 => s.params.half
          | .h1 => s.params.L)) ∧
    (s.flag h = true → t.flag h = false →
      (comesTurn s ∧ s.seq.phase = .test h) ∨ (comesWord s 0x10000000 ∧ s.run = .stopped))

/-- R30, R194: the snapshot in use changes only when Snap_h is taken; a SET_TRIGGER in between does not disturb a search in
progress. -/
def Obligations.SnapshotIsKeptDuringASearch : Prop :=
  ∀ s t : State, step s = .next t → t.seq.lvl ≠ s.seq.lvl ∨ t.seq.edg ≠ s.seq.edg →
    comesTurn s ∧ ∃ h, s.seq.phase = .snap h ∧ t.seq.lvl = s.trigLevel ∧ t.seq.edg = s.trigEdge

/-- R32: while Stopped the buffer does not change, and WPTR and the flags do not change outside a PROCESS's positions except that
START clears them. -/
def Obligations.StoppedBlockKeepsItsBuffer : Prop :=
  ∀ s t : State, step s = .next t → s.run = .stopped → ¬ handling .h0 s → ¬ handling .h1 s →
    t.mem = s.mem ∧
    ((t.wptr = s.wptr ∧ t.halfFlag = s.halfFlag ∧ t.fullFlag = s.fullFlag) ∨
      (comesWord s 0x10000000 ∧ t.wptr = 0 ∧ t.halfFlag = false ∧ t.fullFlag = false))

/-- R6, R12, R85: no step changes the parameters or the reset contents, and the outputs only grow, by at most one a step. -/
def Obligations.OutputsOnlyGrow : Prop :=
  ∀ s t : State, step s = .next t →
    t.params = s.params ∧ t.powerOn = s.powerOn ∧ ∃ o, t.out = s.out ++ o ∧ o.length ≤ 1

/-- R155, R156: a frame goes out only in the emit step of a half that was hit, and it is FRAME. -/
def Obligations.FramesComeFromEmitOnly : Prop :=
  ∀ s t : State, step s = .next t → t.frames ≠ s.frames →
    comesTurn s ∧ t.frames = s.frames ++ [s.frame] ∧ ∃ h, s.seq.phase = .emit h ∧ t.seq.phase = .commit h

/-- R85, R169: every command has exactly one response: responses given and due together grow by one with each command word and
with nothing else. -/
def Obligations.OneResponsePerCommand : Prop :=
  ∀ s t : State, step s = .next t →
    ((∃ w, comesWord s w) → t.responses.length + responsesDue t = s.responses.length + responsesDue s + 1) ∧
    ((¬ ∃ w, comesWord s w) → t.responses.length + responsesDue t = s.responses.length + responsesDue s)

/-- R32, R34: the reset state of every legal parameter set meets the invariant. -/
def Obligations.ResetMeetsInvariant : Prop :=
  (∀ p : Params, p.valid → Inv (State.resetWith p)) ∧ Inv State.reset

/-- R32: every step keeps the invariant: the ranges of the registers and of the cells, the canonical form of memory, the shape of
FRAME, the positions of SEQ, and the form of every response and frame put out. -/
def Obligations.StepKeepsInvariant : Prop :=
  ∀ s t : State, Inv s → step s = .next t → Inv t

/-- R54, R178, R202: from a state that meets the invariant no step faults; a step answers a next state unless the schedule holds
a command during a PROCESS (R179) or a sample no port of this width can deliver (R107, log entry 12). -/
def Obligations.NoStepFaults : Prop :=
  ∀ s : State, Inv s →
    (∃ t, step s = .next t) ∨
    (step s = .refused .commandDuringProcess ∧ s.seq.phase ≠ .idle ∧ ∃ w, comesWord s w) ∨
    (step s = .refused .sampleWiderThanPort ∧ ∃ w rest, s.inbox = .sample w :: rest ∧ 2 ^ s.params.adcBits ≤ w.toNat)

/-- R53, R55, and the canonical form of log entry 3: a byte reads back as it was written, a write leaves every other byte alone
and keeps the form, and a cell reads back as it was written. -/
def Obligations.MemoryReadsBackWhatWasWritten : Prop :=
  (∀ (m : Memory) (a : Nat) (v : Byte), m.wf →
    (m.write a v).wf ∧ (m.write a v).read a = some v ∧ ∀ b, b ≠ a → (m.write a v).read b = m.read b) ∧
  ∀ (m : Memory) (k v : Nat), m.wf → v < 2 ^ 16 →
    (m.writeCell k v).wf ∧ (m.writeCell k v).readCell k = some v ∧ ∀ j, j ≠ k → (m.writeCell k v).readCell j = m.readCell j

/-- R35: any reset values of the cursors, the flags and WPTR give the same responses and frames: two states that differ in them
only while Stopped answer every step alike, and their outputs stay equal. -/
def Obligations.StoppedRegistersAreUnobservable : Prop :=
  (∀ s t : State, EqualToStart s t → s.out = t.out) ∧
  ∀ s t : State, EqualToStart s t → SameAnswer EqualToStart (step s) (step t)

/-- R34, R158 (log entry 9): the work values of SEQ and the entries of FRAME are never read before they are written: two states
that differ only in dead ones answer every step alike, and their outputs stay equal. -/
def Obligations.DeadWorkValuesAreUnobservable : Prop :=
  (∀ s t : State, EqualButDead s t → s.out = t.out) ∧
  ∀ s t : State, Inv s → EqualButDead s t → SameAnswer EqualButDead (step s) (step t)

end
end

