-- ==== Sys2Proof/Laws/Decode.lean ====
section
/-!
SUPPORT. The fields of a command word, and what the small decoding functions give.
-/

namespace Sys2Proof

/-! ### Fields of a word built from fields, and a word rebuilt from its fields -/

variable (op : BitVec 4) (e : BitVec 2) (l : BitVec 16)

theorem commandWord_getLsbD (i : Nat) :
    (commandWord op e l).getLsbD i =
      if i < 16 then l.getLsbD i else if i < 18 then e.getLsbD (i - 16) else if i < 28 then false else op.getLsbD (i - 28) := by
  simp only [commandWord, BitVec.getLsbD_append]
  split
  · rfl
  · rw [show i - 16 - 2 = i - 18 by omega, show i - 18 - 10 = i - 28 by omega]
    by_cases h1 : i < 18
    · simp [h1, show i - 16 < 2 by omega]
    · by_cases h2 : i < 28
      · simp [h1, h2, show ¬ i - 16 < 2 by omega, show i - 18 < 10 by omega]
      · simp [h1, h2, show ¬ i - 16 < 2 by omega, show ¬ i - 18 < 10 by omega]

@[simp] theorem opcodeField_commandWord : opcodeField (commandWord op e l) = op := by
  apply BitVec.eq_of_getLsbD_eq
  intro i hi
  simp [opcodeField, commandWord_getLsbD, hi, show ¬ 28 + i < 16 by omega, show ¬ 28 + i < 18 by omega]

@[simp] theorem zeroField_commandWord : zeroField (commandWord op e l) = 0 := by
  apply BitVec.eq_of_getLsbD_eq
  intro i hi
  simp [zeroField, commandWord_getLsbD, hi, show ¬ 18 + i < 16 by omega, show ¬ 18 + i < 18 by omega,
    show 18 + i < 28 by omega]

@[simp] theorem edgeField_commandWord : edgeField (commandWord op e l) = e := by
  apply BitVec.eq_of_getLsbD_eq
  intro i hi
  simp [edgeField, commandWord_getLsbD, hi, show ¬ 16 + i < 16 by omega, show 16 + i < 18 by omega]

@[simp] theorem levelField_commandWord : levelField (commandWord op e l) = l := by
  apply BitVec.eq_of_getLsbD_eq
  intro i hi
  simp [levelField, commandWord_getLsbD, hi]

theorem commandWord_fields {w : Word} (h : zeroField w = 0) :
    commandWord (opcodeField w) (edgeField w) (levelField w) = w := by
  apply BitVec.eq_of_getLsbD_eq
  intro i hi
  rw [commandWord_getLsbD]
  split
  · simp [levelField, *]
  · split
    · simp [edgeField, show i - 16 < 2 by omega, show 16 + (i - 16) = i by omega]
    · split
      · have := congrArg (fun v => v.getLsbD (i - 18)) h
        simp only [zeroField, BitVec.getLsbD_extractLsb', show i - 18 < 10 by omega, show 18 + (i - 18) = i by omega,
          decide_true, Bool.true_and] at this
        simpa using this.symm
      · simp [opcodeField, show i - 28 < 4 by omega, show 28 + (i - 28) = i by omega]

/-! ### Operands -/

@[simp] theorem Edge.ofCode_code (e : Edge) : Edge.ofCode e.code = some e := by cases e <;> rfl

theorem Edge.ofCode_eq_some {c : BitVec 2} {e : Edge} (h : Edge.ofCode c = some e) : e.code = c := by
  revert h; revert c e; decide

theorem sext16_range (v : BitVec 16) : -32768 ≤ sext16 v ∧ sext16 v ≤ 32767 := by
  have := v.isLt
  unfold sext16
  split <;> omega

theorem sext16_ofInt {level : Int} (h : -32768 ≤ level ∧ level ≤ 32767) : sext16 (BitVec.ofInt 16 level) = level := by
  have : (BitVec.ofInt 16 level).toNat = (level % 65536).toNat := by simp [BitVec.toNat_ofInt]
  unfold sext16
  rw [this]
  split <;> omega

theorem ofInt_sext16 (v : BitVec 16) : BitVec.ofInt 16 (sext16 v) = v := by
  apply BitVec.eq_of_toNat_eq
  have := v.isLt
  simp only [BitVec.toNat_ofInt]
  unfold sext16
  split <;> omega

/-! ### The decoder -/

theorem decodePlain_eq_instr {i j : Instr} {w : Word} :
    decodePlain i w = .instr j ↔ j = i ∧ edgeField w = 0 ∧ levelField w = 0 := by
  unfold decodePlain
  split
  · rename_i h
    exact ⟨fun heq => ⟨(Decoded.instr.inj heq).symm, h⟩, fun heq => by rw [heq.1]⟩
  · rename_i h
    exact ⟨fun heq => (nomatch heq), fun heq => absurd heq.2 h⟩

theorem decodeSetTrigger_eq_instr {j : Instr} {w : Word} (h : decodeSetTrigger w = .instr j) :
    ∃ e, j = .setTrigger (sext16 (levelField w)) e ∧ edgeField w = e.code := by
  unfold decodeSetTrigger at h
  split at h
  · rename_i e he
    exact ⟨e, (Decoded.instr.inj h).symm, (Edge.ofCode_eq_some he).symm⟩
  · cases h

theorem decodeCommand_eq_instr {i : Instr} {w : Word} (h : decodeCommand w = .instr i) :
    zeroField w = 0 ∧ decodeOpcode w = .instr i := by
  unfold decodeCommand at h
  split at h
  · exact ⟨‹_›, h⟩
  · cases h

/-- Which operation an opcode names, with what the operand fields then are (30_encoding.md R82). -/
theorem decodeOpcode_eq_instr {i : Instr} {w : Word} (h : decodeOpcode w = .instr i) :
    (opcodeField w = 5 ∧ ∃ e, i = .setTrigger (sext16 (levelField w)) e ∧ edgeField w = e.code) ∨
      ((edgeField w = 0 ∧ levelField w = 0) ∧
        ((opcodeField w = 1 ∧ i = .start) ∨ (opcodeField w = 2 ∧ i = .stop) ∨ (opcodeField w = 3 ∧ i = .isRunning) ∨
          (opcodeField w = 4 ∧ i = .process) ∨ (opcodeField w = 6 ∧ i = .getTriggerLevel) ∨
          (opcodeField w = 7 ∧ i = .getTriggerEdge))) := by
  have key : ∀ n : Nat, n < 16 → (opcodeField w).toNat = n → opcodeField w = BitVec.ofNat 4 n := fun n _ hn =>
    BitVec.eq_of_toNat_eq (by rw [hn, BitVec.toNat_ofNat]; omega)
  unfold decodeOpcode at h
  split at h
  case h_5 h5 => exact .inl ⟨key 5 (by decide) h5, decodeSetTrigger_eq_instr h⟩
  case h_8 => cases h
  all_goals
    rename_i hn
    rw [decodePlain_eq_instr] at h
    refine .inr ⟨h.2, ?_⟩
    have := key _ (by decide) hn
    simp [this, h.1]

theorem decodeSample_eq_instr {n : Nat} {i : Instr} {w : SampleWord} :
    decodeSample n w = .instr i ↔ i = .pSample w.toNat ∧ w.toNat < 2 ^ n := by
  unfold decodeSample
  split
  · exact ⟨fun h => ⟨(Decoded.instr.inj h).symm, ‹_›⟩, fun h => by rw [h.1]⟩
  · exact ⟨fun h => (nomatch h), fun h => absurd h.2 ‹_›⟩

/-- No command word is a sample. -/
theorem decodeCommand_ne_pSample {w : Word} {v : Nat} : decodeCommand w ≠ .instr (.pSample v) := by
  intro h
  rcases decodeOpcode_eq_instr (decodeCommand_eq_instr h).2 with ⟨-, e, h, -⟩ | ⟨-, h⟩
  · cases h
  · rcases h with ⟨-, h⟩ | ⟨-, h⟩ | ⟨-, h⟩ | ⟨-, h⟩ | ⟨-, h⟩ | ⟨-, h⟩ <;> cases h

/-- The one word of START (30_encoding.md R93). -/
theorem decodeCommand_start {w : Word} (h : decodeCommand w = .instr .start) : w = 0x10000000 := by
  obtain ⟨hz, h⟩ := decodeCommand_eq_instr h
  rw [← commandWord_fields hz]
  rcases decodeOpcode_eq_instr h with ⟨-, e, h, -⟩ | ⟨⟨he, hl⟩, h⟩
  · cases h
  · rcases h with ⟨ho, -⟩ | ⟨-, h⟩ | ⟨-, h⟩ | ⟨-, h⟩ | ⟨-, h⟩ | ⟨-, h⟩
    · rw [he, hl, ho]; rfl
    all_goals cases h

/-- The one word of STOP (30_encoding.md R93). -/
theorem decodeCommand_stop {w : Word} (h : decodeCommand w = .instr .stop) : w = 0x20000000 := by
  obtain ⟨hz, h⟩ := decodeCommand_eq_instr h
  rw [← commandWord_fields hz]
  rcases decodeOpcode_eq_instr h with ⟨-, e, h, -⟩ | ⟨⟨he, hl⟩, h⟩
  · cases h
  · rcases h with ⟨-, h⟩ | ⟨ho, -⟩ | ⟨-, h⟩ | ⟨-, h⟩ | ⟨-, h⟩ | ⟨-, h⟩
    · cases h
    · rw [he, hl, ho]; rfl
    all_goals cases h

/-! ### The fields as numbers -/

theorem toNat_opcodeField (w : Word) : (opcodeField w).toNat = w.toNat / 2 ^ 28 := by
  have := w.isLt
  simp only [opcodeField, BitVec.extractLsb'_toNat, Nat.shiftRight_eq_div_pow]
  omega

theorem toNat_edgeField (w : Word) : (edgeField w).toNat = w.toNat / 2 ^ 16 % 4 := by
  simp [edgeField, Nat.shiftRight_eq_div_pow]

theorem toNat_levelField (w : Word) : (levelField w).toNat = w.toNat % 2 ^ 16 := by
  simp [levelField]

theorem zeroField_eq_zero {w : Word} : zeroField w = 0 ↔ w.toNat / 2 ^ 18 % 2 ^ 10 = 0 := by
  rw [← BitVec.toNat_inj]
  simp [zeroField, Nat.shiftRight_eq_div_pow]

end Sys2Proof
end

