-- ==== Sys2Proof/Laws/State.lean ====
section
/-!
SUPPORT. One lemma per field per named update of State, so that no later proof unfolds a record update.
-/

namespace Sys2Proof.Machine

/-! ### `State.putFlag` -/

@[simp] theorem putFlag_params (s : State) (h : Half) (b : Bool) : (s.putFlag h b).params = s.params := by cases h <;> rfl
@[simp] theorem putFlag_run (s : State) (h : Half) (b : Bool) : (s.putFlag h b).run = s.run := by cases h <;> rfl
@[simp] theorem putFlag_trigLevel (s : State) (h : Half) (b : Bool) : (s.putFlag h b).trigLevel = s.trigLevel := by cases h <;> rfl
@[simp] theorem putFlag_trigEdge (s : State) (h : Half) (b : Bool) : (s.putFlag h b).trigEdge = s.trigEdge := by cases h <;> rfl
@[simp] theorem putFlag_cursor0 (s : State) (h : Half) (b : Bool) : (s.putFlag h b).cursor0 = s.cursor0 := by cases h <;> rfl
@[simp] theorem putFlag_cursor1 (s : State) (h : Half) (b : Bool) : (s.putFlag h b).cursor1 = s.cursor1 := by cases h <;> rfl
@[simp] theorem putFlag_wptr (s : State) (h : Half) (b : Bool) : (s.putFlag h b).wptr = s.wptr := by cases h <;> rfl
@[simp] theorem putFlag_mem (s : State) (h : Half) (b : Bool) : (s.putFlag h b).mem = s.mem := by cases h <;> rfl
@[simp] theorem putFlag_powerOn (s : State) (h : Half) (b : Bool) : (s.putFlag h b).powerOn = s.powerOn := by cases h <;> rfl
@[simp] theorem putFlag_frame (s : State) (h : Half) (b : Bool) : (s.putFlag h b).frame = s.frame := by cases h <;> rfl
@[simp] theorem putFlag_seq (s : State) (h : Half) (b : Bool) : (s.putFlag h b).seq = s.seq := by cases h <;> rfl
@[simp] theorem putFlag_armPort (s : State) (h : Half) (b : Bool) : (s.putFlag h b).armPort = s.armPort := by cases h <;> rfl
@[simp] theorem putFlag_inbox (s : State) (h : Half) (b : Bool) : (s.putFlag h b).inbox = s.inbox := by cases h <;> rfl
@[simp] theorem putFlag_out (s : State) (h : Half) (b : Bool) : (s.putFlag h b).out = s.out := by cases h <;> rfl

@[simp] theorem putFlag_flag_same (s : State) (h : Half) (b : Bool) : (s.putFlag h b).flag h = b := by cases h <;> rfl
theorem putFlag_flag_other (s : State) (h h' : Half) (b : Bool) (hne : h' ≠ h) : (s.putFlag h b).flag h' = s.flag h' := by
  cases h <;> cases h' <;> first | rfl | exact absurd rfl hne
@[simp] theorem putFlag_h0 (s : State) (b : Bool) : s.putFlag .h0 b = { s with halfFlag := b } := rfl
@[simp] theorem putFlag_h1 (s : State) (b : Bool) : s.putFlag .h1 b = { s with fullFlag := b } := rfl
@[simp] theorem flag_h0 (s : State) : s.flag .h0 = s.halfFlag := rfl
@[simp] theorem flag_h1 (s : State) : s.flag .h1 = s.fullFlag := rfl

/-! ### `State.putCursor` -/

@[simp] theorem putCursor_params (s : State) (h : Half) (v : Nat) : (s.putCursor h v).params = s.params := by cases h <;> rfl
@[simp] theorem putCursor_run (s : State) (h : Half) (v : Nat) : (s.putCursor h v).run = s.run := by cases h <;> rfl
@[simp] theorem putCursor_trigLevel (s : State) (h : Half) (v : Nat) : (s.putCursor h v).trigLevel = s.trigLevel := by cases h <;> rfl
@[simp] theorem putCursor_trigEdge (s : State) (h : Half) (v : Nat) : (s.putCursor h v).trigEdge = s.trigEdge := by cases h <;> rfl
@[simp] theorem putCursor_halfFlag (s : State) (h : Half) (v : Nat) : (s.putCursor h v).halfFlag = s.halfFlag := by cases h <;> rfl
@[simp] theorem putCursor_fullFlag (s : State) (h : Half) (v : Nat) : (s.putCursor h v).fullFlag = s.fullFlag := by cases h <;> rfl
@[simp] theorem putCursor_wptr (s : State) (h : Half) (v : Nat) : (s.putCursor h v).wptr = s.wptr := by cases h <;> rfl
@[simp] theorem putCursor_mem (s : State) (h : Half) (v : Nat) : (s.putCursor h v).mem = s.mem := by cases h <;> rfl
@[simp] theorem putCursor_powerOn (s : State) (h : Half) (v : Nat) : (s.putCursor h v).powerOn = s.powerOn := by cases h <;> rfl
@[simp] theorem putCursor_frame (s : State) (h : Half) (v : Nat) : (s.putCursor h v).frame = s.frame := by cases h <;> rfl
@[simp] theorem putCursor_seq (s : State) (h : Half) (v : Nat) : (s.putCursor h v).seq = s.seq := by cases h <;> rfl
@[simp] theorem putCursor_armPort (s : State) (h : Half) (v : Nat) : (s.putCursor h v).armPort = s.armPort := by cases h <;> rfl
@[simp] theorem putCursor_inbox (s : State) (h : Half) (v : Nat) : (s.putCursor h v).inbox = s.inbox := by cases h <;> rfl
@[simp] theorem putCursor_out (s : State) (h : Half) (v : Nat) : (s.putCursor h v).out = s.out := by cases h <;> rfl

@[simp] theorem putCursor_cursor_same (s : State) (h : Half) (v : Nat) : (s.putCursor h v).cursor h = v := by cases h <;> rfl
theorem putCursor_cursor_other (s : State) (h h' : Half) (v : Nat) (hne : h' ≠ h) :
    (s.putCursor h v).cursor h' = s.cursor h' := by
  cases h <;> cases h' <;> first | rfl | exact absurd rfl hne
@[simp] theorem putCursor_h0 (s : State) (v : Nat) : s.putCursor .h0 v = { s with cursor0 := v } := rfl
@[simp] theorem putCursor_h1 (s : State) (v : Nat) : s.putCursor .h1 v = { s with cursor1 := v } := rfl
@[simp] theorem cursor_h0 (s : State) : s.cursor .h0 = s.cursor0 := rfl
@[simp] theorem cursor_h1 (s : State) : s.cursor .h1 = s.cursor1 := rfl

/-! ### `State.putSeq` and `State.goto` -/

@[simp] theorem putSeq_params (s : State) (q : Sequencer) : (s.putSeq q).params = s.params := rfl
@[simp] theorem putSeq_run (s : State) (q : Sequencer) : (s.putSeq q).run = s.run := rfl
@[simp] theorem putSeq_trigLevel (s : State) (q : Sequencer) : (s.putSeq q).trigLevel = s.trigLevel := rfl
@[simp] theorem putSeq_trigEdge (s : State) (q : Sequencer) : (s.putSeq q).trigEdge = s.trigEdge := rfl
@[simp] theorem putSeq_cursor0 (s : State) (q : Sequencer) : (s.putSeq q).cursor0 = s.cursor0 := rfl
@[simp] theorem putSeq_cursor1 (s : State) (q : Sequencer) : (s.putSeq q).cursor1 = s.cursor1 := rfl
@[simp] theorem putSeq_halfFlag (s : State) (q : Sequencer) : (s.putSeq q).halfFlag = s.halfFlag := rfl
@[simp] theorem putSeq_fullFlag (s : State) (q : Sequencer) : (s.putSeq q).fullFlag = s.fullFlag := rfl
@[simp] theorem putSeq_wptr (s : State) (q : Sequencer) : (s.putSeq q).wptr = s.wptr := rfl
@[simp] theorem putSeq_mem (s : State) (q : Sequencer) : (s.putSeq q).mem = s.mem := rfl
@[simp] theorem putSeq_powerOn (s : State) (q : Sequencer) : (s.putSeq q).powerOn = s.powerOn := rfl
@[simp] theorem putSeq_frame (s : State) (q : Sequencer) : (s.putSeq q).frame = s.frame := rfl
@[simp] theorem putSeq_seq (s : State) (q : Sequencer) : (s.putSeq q).seq = q := rfl
@[simp] theorem putSeq_armPort (s : State) (q : Sequencer) : (s.putSeq q).armPort = s.armPort := rfl
@[simp] theorem putSeq_inbox (s : State) (q : Sequencer) : (s.putSeq q).inbox = s.inbox := rfl
@[simp] theorem putSeq_out (s : State) (q : Sequencer) : (s.putSeq q).out = s.out := rfl

@[simp] theorem goto_params (s : State) (ph : Phase) : (s.goto ph).params = s.params := rfl
@[simp] theorem goto_run (s : State) (ph : Phase) : (s.goto ph).run = s.run := rfl
@[simp] theorem goto_trigLevel (s : State) (ph : Phase) : (s.goto ph).trigLevel = s.trigLevel := rfl
@[simp] theorem goto_trigEdge (s : State) (ph : Phase) : (s.goto ph).trigEdge = s.trigEdge := rfl
@[simp] theorem goto_cursor0 (s : State) (ph : Phase) : (s.goto ph).cursor0 = s.cursor0 := rfl
@[simp] theorem goto_cursor1 (s : State) (ph : Phase) : (s.goto ph).cursor1 = s.cursor1 := rfl
@[simp] theorem goto_halfFlag (s : State) (ph : Phase) : (s.goto ph).halfFlag = s.halfFlag := rfl
@[simp] theorem goto_fullFlag (s : State) (ph : Phase) : (s.goto ph).fullFlag = s.fullFlag := rfl
@[simp] theorem goto_wptr (s : State) (ph : Phase) : (s.goto ph).wptr = s.wptr := rfl
@[simp] theorem goto_mem (s : State) (ph : Phase) : (s.goto ph).mem = s.mem := rfl
@[simp] theorem goto_powerOn (s : State) (ph : Phase) : (s.goto ph).powerOn = s.powerOn := rfl
@[simp] theorem goto_frame (s : State) (ph : Phase) : (s.goto ph).frame = s.frame := rfl
@[simp] theorem goto_seq (s : State) (ph : Phase) : (s.goto ph).seq = { s.seq with phase := ph } := rfl
@[simp] theorem goto_armPort (s : State) (ph : Phase) : (s.goto ph).armPort = s.armPort := rfl
@[simp] theorem goto_inbox (s : State) (ph : Phase) : (s.goto ph).inbox = s.inbox := rfl
@[simp] theorem goto_out (s : State) (ph : Phase) : (s.goto ph).out = s.out := rfl

/-! ### `State.setTrig`, `raiseFlags`, `State.armed` -/

@[simp] theorem setTrig_params (s : State) (l : Nat) (e : Edge) : (s.setTrig l e).params = s.params := rfl
@[simp] theorem setTrig_run (s : State) (l : Nat) (e : Edge) : (s.setTrig l e).run = s.run := rfl
@[simp] theorem setTrig_trigLevel (s : State) (l : Nat) (e : Edge) : (s.setTrig l e).trigLevel = l := rfl
@[simp] theorem setTrig_trigEdge (s : State) (l : Nat) (e : Edge) : (s.setTrig l e).trigEdge = e := rfl
@[simp] theorem setTrig_cursor0 (s : State) (l : Nat) (e : Edge) : (s.setTrig l e).cursor0 = s.cursor0 := rfl
@[simp] theorem setTrig_cursor1 (s : State) (l : Nat) (e : Edge) : (s.setTrig l e).cursor1 = s.cursor1 := rfl
@[simp] theorem setTrig_halfFlag (s : State) (l : Nat) (e : Edge) : (s.setTrig l e).halfFlag = s.halfFlag := rfl
@[simp] theorem setTrig_fullFlag (s : State) (l : Nat) (e : Edge) : (s.setTrig l e).fullFlag = s.fullFlag := rfl
@[simp] theorem setTrig_wptr (s : State) (l : Nat) (e : Edge) : (s.setTrig l e).wptr = s.wptr := rfl
@[simp] theorem setTrig_mem (s : State) (l : Nat) (e : Edge) : (s.setTrig l e).mem = s.mem := rfl
@[simp] theorem setTrig_powerOn (s : State) (l : Nat) (e : Edge) : (s.setTrig l e).powerOn = s.powerOn := rfl
@[simp] theorem setTrig_frame (s : State) (l : Nat) (e : Edge) : (s.setTrig l e).frame = s.frame := rfl
@[simp] theorem setTrig_seq (s : State) (l : Nat) (e : Edge) : (s.setTrig l e).seq = s.seq := rfl
@[simp] theorem setTrig_armPort (s : State) (l : Nat) (e : Edge) : (s.setTrig l e).armPort = s.armPort := rfl
@[simp] theorem setTrig_inbox (s : State) (l : Nat) (e : Edge) : (s.setTrig l e).inbox = s.inbox := rfl
@[simp] theorem setTrig_out (s : State) (l : Nat) (e : Edge) : (s.setTrig l e).out = s.out := rfl

@[simp] theorem raiseFlags_params (s : State) (n : Nat) : (raiseFlags n s).params = s.params := rfl
@[simp] theorem raiseFlags_run (s : State) (n : Nat) : (raiseFlags n s).run = s.run := rfl
@[simp] theorem raiseFlags_trigLevel (s : State) (n : Nat) : (raiseFlags n s).trigLevel = s.trigLevel := rfl
@[simp] theorem raiseFlags_trigEdge (s : State) (n : Nat) : (raiseFlags n s).trigEdge = s.trigEdge := rfl
@[simp] theorem raiseFlags_cursor0 (s : State) (n : Nat) : (raiseFlags n s).cursor0 = s.cursor0 := rfl
@[simp] theorem raiseFlags_cursor1 (s : State) (n : Nat) : (raiseFlags n s).cursor1 = s.cursor1 := rfl
@[simp] theorem raiseFlags_halfFlag (s : State) (n : Nat) : (raiseFlags n s).halfFlag = (s.halfFlag || decide (n = s.params.half)) := rfl
@[simp] theorem raiseFlags_fullFlag (s : State) (n : Nat) : (raiseFlags n s).fullFlag = (s.fullFlag || decide (n = 0)) := rfl
@[simp] theorem raiseFlags_wptr (s : State) (n : Nat) : (raiseFlags n s).wptr = s.wptr := rfl
@[simp] theorem raiseFlags_mem (s : State) (n : Nat) : (raiseFlags n s).mem = s.mem := rfl
@[simp] theorem raiseFlags_powerOn (s : State) (n : Nat) : (raiseFlags n s).powerOn = s.powerOn := rfl
@[simp] theorem raiseFlags_frame (s : State) (n : Nat) : (raiseFlags n s).frame = s.frame := rfl
@[simp] theorem raiseFlags_seq (s : State) (n : Nat) : (raiseFlags n s).seq = s.seq := rfl
@[simp] theorem raiseFlags_armPort (s : State) (n : Nat) : (raiseFlags n s).armPort = s.armPort := rfl
@[simp] theorem raiseFlags_inbox (s : State) (n : Nat) : (raiseFlags n s).inbox = s.inbox := rfl
@[simp] theorem raiseFlags_out (s : State) (n : Nat) : (raiseFlags n s).out = s.out := rfl

@[simp] theorem armed_params (s : State) : (s.armed).params = s.params := rfl
@[simp] theorem armed_run (s : State) : (s.armed).run = .running := rfl
@[simp] theorem armed_trigLevel (s : State) : (s.armed).trigLevel = s.trigLevel := rfl
@[simp] theorem armed_trigEdge (s : State) : (s.armed).trigEdge = s.trigEdge := rfl
@[simp] theorem armed_cursor0 (s : State) : (s.armed).cursor0 = 0 := rfl
@[simp] theorem armed_cursor1 (s : State) : (s.armed).cursor1 = 0 := rfl
@[simp] theorem armed_halfFlag (s : State) : (s.armed).halfFlag = false := rfl
@[simp] theorem armed_fullFlag (s : State) : (s.armed).fullFlag = false := rfl
@[simp] theorem armed_wptr (s : State) : (s.armed).wptr = 0 := rfl
@[simp] theorem armed_mem (s : State) : (s.armed).mem = s.mem := rfl
@[simp] theorem armed_powerOn (s : State) : (s.armed).powerOn = s.powerOn := rfl
@[simp] theorem armed_frame (s : State) : (s.armed).frame = s.frame := rfl
@[simp] theorem armed_seq (s : State) : (s.armed).seq = s.seq := rfl
@[simp] theorem armed_armPort (s : State) : (s.armed).armPort = s.armPort := rfl
@[simp] theorem armed_inbox (s : State) : (s.armed).inbox = s.inbox := rfl
@[simp] theorem armed_out (s : State) : (s.armed).out = s.out := rfl

/-! ### Outputs -/

@[simp] theorem put_params (s : State) (o : Output) : (s.put o).params = s.params := rfl
@[simp] theorem put_run (s : State) (o : Output) : (s.put o).run = s.run := rfl
@[simp] theorem put_trigLevel (s : State) (o : Output) : (s.put o).trigLevel = s.trigLevel := rfl
@[simp] theorem put_trigEdge (s : State) (o : Output) : (s.put o).trigEdge = s.trigEdge := rfl
@[simp] theorem put_cursor0 (s : State) (o : Output) : (s.put o).cursor0 = s.cursor0 := rfl
@[simp] theorem put_cursor1 (s : State) (o : Output) : (s.put o).cursor1 = s.cursor1 := rfl
@[simp] theorem put_halfFlag (s : State) (o : Output) : (s.put o).halfFlag = s.halfFlag := rfl
@[simp] theorem put_fullFlag (s : State) (o : Output) : (s.put o).fullFlag = s.fullFlag := rfl
@[simp] theorem put_wptr (s : State) (o : Output) : (s.put o).wptr = s.wptr := rfl
@[simp] theorem put_mem (s : State) (o : Output) : (s.put o).mem = s.mem := rfl
@[simp] theorem put_powerOn (s : State) (o : Output) : (s.put o).powerOn = s.powerOn := rfl
@[simp] theorem put_frame (s : State) (o : Output) : (s.put o).frame = s.frame := rfl
@[simp] theorem put_seq (s : State) (o : Output) : (s.put o).seq = s.seq := rfl
@[simp] theorem put_armPort (s : State) (o : Output) : (s.put o).armPort = s.armPort := rfl
@[simp] theorem put_inbox (s : State) (o : Output) : (s.put o).inbox = s.inbox := rfl
@[simp] theorem put_out (s : State) (o : Output) : (s.put o).out = s.out ++ [o] := rfl

@[simp] theorem respond_params (s : State) (st : Status) (v : Nat) : (respond st v s).params = s.params := rfl
@[simp] theorem respond_run (s : State) (st : Status) (v : Nat) : (respond st v s).run = s.run := rfl
@[simp] theorem respond_trigLevel (s : State) (st : Status) (v : Nat) : (respond st v s).trigLevel = s.trigLevel := rfl
@[simp] theorem respond_trigEdge (s : State) (st : Status) (v : Nat) : (respond st v s).trigEdge = s.trigEdge := rfl
@[simp] theorem respond_cursor0 (s : State) (st : Status) (v : Nat) : (respond st v s).cursor0 = s.cursor0 := rfl
@[simp] theorem respond_cursor1 (s : State) (st : Status) (v : Nat) : (respond st v s).cursor1 = s.cursor1 := rfl
@[simp] theorem respond_halfFlag (s : State) (st : Status) (v : Nat) : (respond st v s).halfFlag = s.halfFlag := rfl
@[simp] theorem respond_fullFlag (s : State) (st : Status) (v : Nat) : (respond st v s).fullFlag = s.fullFlag := rfl
@[simp] theorem respond_wptr (s : State) (st : Status) (v : Nat) : (respond st v s).wptr = s.wptr := rfl
@[simp] theorem respond_mem (s : State) (st : Status) (v : Nat) : (respond st v s).mem = s.mem := rfl
@[simp] theorem respond_powerOn (s : State) (st : Status) (v : Nat) : (respond st v s).powerOn = s.powerOn := rfl
@[simp] theorem respond_frame (s : State) (st : Status) (v : Nat) : (respond st v s).frame = s.frame := rfl
@[simp] theorem respond_seq (s : State) (st : Status) (v : Nat) : (respond st v s).seq = s.seq := rfl
@[simp] theorem respond_armPort (s : State) (st : Status) (v : Nat) : (respond st v s).armPort = s.armPort := rfl
@[simp] theorem respond_inbox (s : State) (st : Status) (v : Nat) : (respond st v s).inbox = s.inbox := rfl
@[simp] theorem respond_out (s : State) (st : Status) (v : Nat) : (respond st v s).out = s.out ++ [.response (responseWord st v)] := rfl

@[simp] theorem reportError_params (s : State) (st : Status) : (reportError st s).params = s.params := rfl
@[simp] theorem reportError_run (s : State) (st : Status) : (reportError st s).run = s.run := rfl
@[simp] theorem reportError_trigLevel (s : State) (st : Status) : (reportError st s).trigLevel = s.trigLevel := rfl
@[simp] theorem reportError_trigEdge (s : State) (st : Status) : (reportError st s).trigEdge = s.trigEdge := rfl
@[simp] theorem reportError_cursor0 (s : State) (st : Status) : (reportError st s).cursor0 = s.cursor0 := rfl
@[simp] theorem reportError_cursor1 (s : State) (st : Status) : (reportError st s).cursor1 = s.cursor1 := rfl
@[simp] theorem reportError_halfFlag (s : State) (st : Status) : (reportError st s).halfFlag = s.halfFlag := rfl
@[simp] theorem reportError_fullFlag (s : State) (st : Status) : (reportError st s).fullFlag = s.fullFlag := rfl
@[simp] theorem reportError_wptr (s : State) (st : Status) : (reportError st s).wptr = s.wptr := rfl
@[simp] theorem reportError_mem (s : State) (st : Status) : (reportError st s).mem = s.mem := rfl
@[simp] theorem reportError_powerOn (s : State) (st : Status) : (reportError st s).powerOn = s.powerOn := rfl
@[simp] theorem reportError_frame (s : State) (st : Status) : (reportError st s).frame = s.frame := rfl
@[simp] theorem reportError_seq (s : State) (st : Status) : (reportError st s).seq = s.seq := rfl
@[simp] theorem reportError_armPort (s : State) (st : Status) : (reportError st s).armPort = s.armPort := rfl
@[simp] theorem reportError_inbox (s : State) (st : Status) : (reportError st s).inbox = s.inbox := rfl
@[simp] theorem reportError_out (s : State) (st : Status) : (reportError st s).out = s.out ++ [.response (responseWord st 0)] := rfl

@[simp] theorem emitFrame_params (s : State) (ys : List Nat) : (emitFrame ys s).params = s.params := rfl
@[simp] theorem emitFrame_run (s : State) (ys : List Nat) : (emitFrame ys s).run = s.run := rfl
@[simp] theorem emitFrame_trigLevel (s : State) (ys : List Nat) : (emitFrame ys s).trigLevel = s.trigLevel := rfl
@[simp] theorem emitFrame_trigEdge (s : State) (ys : List Nat) : (emitFrame ys s).trigEdge = s.trigEdge := rfl
@[simp] theorem emitFrame_cursor0 (s : State) (ys : List Nat) : (emitFrame ys s).cursor0 = s.cursor0 := rfl
@[simp] theorem emitFrame_cursor1 (s : State) (ys : List Nat) : (emitFrame ys s).cursor1 = s.cursor1 := rfl
@[simp] theorem emitFrame_halfFlag (s : State) (ys : List Nat) : (emitFrame ys s).halfFlag = s.halfFlag := rfl
@[simp] theorem emitFrame_fullFlag (s : State) (ys : List Nat) : (emitFrame ys s).fullFlag = s.fullFlag := rfl
@[simp] theorem emitFrame_wptr (s : State) (ys : List Nat) : (emitFrame ys s).wptr = s.wptr := rfl
@[simp] theorem emitFrame_mem (s : State) (ys : List Nat) : (emitFrame ys s).mem = s.mem := rfl
@[simp] theorem emitFrame_powerOn (s : State) (ys : List Nat) : (emitFrame ys s).powerOn = s.powerOn := rfl
@[simp] theorem emitFrame_frame (s : State) (ys : List Nat) : (emitFrame ys s).frame = s.frame := rfl
@[simp] theorem emitFrame_seq (s : State) (ys : List Nat) : (emitFrame ys s).seq = s.seq := rfl
@[simp] theorem emitFrame_armPort (s : State) (ys : List Nat) : (emitFrame ys s).armPort = s.armPort := rfl
@[simp] theorem emitFrame_inbox (s : State) (ys : List Nat) : (emitFrame ys s).inbox = s.inbox := rfl
@[simp] theorem emitFrame_out (s : State) (ys : List Nat) : (emitFrame ys s).out = s.out ++ [.frame ys] := rfl

/-! ### The scan's moves -/

@[simp] theorem enterPair_params (s : State) (h : Half) (i : Nat) : (enterPair h i s).params = s.params := by unfold enterPair; split <;> rfl
@[simp] theorem enterPair_run (s : State) (h : Half) (i : Nat) : (enterPair h i s).run = s.run := by unfold enterPair; split <;> rfl
@[simp] theorem enterPair_trigLevel (s : State) (h : Half) (i : Nat) : (enterPair h i s).trigLevel = s.trigLevel := by unfold enterPair; split <;> rfl
@[simp] theorem enterPair_trigEdge (s : State) (h : Half) (i : Nat) : (enterPair h i s).trigEdge = s.trigEdge := by unfold enterPair; split <;> rfl
@[simp] theorem enterPair_cursor0 (s : State) (h : Half) (i : Nat) : (enterPair h i s).cursor0 = s.cursor0 := by unfold enterPair; split <;> rfl
@[simp] theorem enterPair_cursor1 (s : State) (h : Half) (i : Nat) : (enterPair h i s).cursor1 = s.cursor1 := by unfold enterPair; split <;> rfl
@[simp] theorem enterPair_halfFlag (s : State) (h : Half) (i : Nat) : (enterPair h i s).halfFlag = s.halfFlag := by unfold enterPair; split <;> rfl
@[simp] theorem enterPair_fullFlag (s : State) (h : Half) (i : Nat) : (enterPair h i s).fullFlag = s.fullFlag := by unfold enterPair; split <;> rfl
@[simp] theorem enterPair_wptr (s : State) (h : Half) (i : Nat) : (enterPair h i s).wptr = s.wptr := by unfold enterPair; split <;> rfl
@[simp] theorem enterPair_mem (s : State) (h : Half) (i : Nat) : (enterPair h i s).mem = s.mem := by unfold enterPair; split <;> rfl
@[simp] theorem enterPair_powerOn (s : State) (h : Half) (i : Nat) : (enterPair h i s).powerOn = s.powerOn := by unfold enterPair; split <;> rfl
@[simp] theorem enterPair_frame (s : State) (h : Half) (i : Nat) : (enterPair h i s).frame = s.frame := by unfold enterPair; split <;> rfl
@[simp] theorem enterPair_armPort (s : State) (h : Half) (i : Nat) : (enterPair h i s).armPort = s.armPort := by unfold enterPair; split <;> rfl
@[simp] theorem enterPair_inbox (s : State) (h : Half) (i : Nat) : (enterPair h i s).inbox = s.inbox := by unfold enterPair; split <;> rfl
@[simp] theorem enterPair_out (s : State) (h : Half) (i : Nat) : (enterPair h i s).out = s.out := by unfold enterPair; split <;> rfl

theorem enterPair_seq (s : State) (h : Half) (i : Nat) :
    (enterPair h i s).seq =
      if i + 1 < s.params.half ∧ s.seq.edg ≠ .disabled then
        { s.seq with phase := .search h, i := i, prev := none }
      else { s.seq with phase := .commit h, prev := none, res := none } := by
  unfold enterPair; split <;> rfl

@[simp] theorem enterMap_params (s : State) (h : Half) (r : Nat) : (enterMap h r s).params = s.params := rfl
@[simp] theorem enterMap_run (s : State) (h : Half) (r : Nat) : (enterMap h r s).run = s.run := rfl
@[simp] theorem enterMap_trigLevel (s : State) (h : Half) (r : Nat) : (enterMap h r s).trigLevel = s.trigLevel := rfl
@[simp] theorem enterMap_trigEdge (s : State) (h : Half) (r : Nat) : (enterMap h r s).trigEdge = s.trigEdge := rfl
@[simp] theorem enterMap_cursor0 (s : State) (h : Half) (r : Nat) : (enterMap h r s).cursor0 = s.cursor0 := rfl
@[simp] theorem enterMap_cursor1 (s : State) (h : Half) (r : Nat) : (enterMap h r s).cursor1 = s.cursor1 := rfl
@[simp] theorem enterMap_halfFlag (s : State) (h : Half) (r : Nat) : (enterMap h r s).halfFlag = s.halfFlag := rfl
@[simp] theorem enterMap_fullFlag (s : State) (h : Half) (r : Nat) : (enterMap h r s).fullFlag = s.fullFlag := rfl
@[simp] theorem enterMap_wptr (s : State) (h : Half) (r : Nat) : (enterMap h r s).wptr = s.wptr := rfl
@[simp] theorem enterMap_mem (s : State) (h : Half) (r : Nat) : (enterMap h r s).mem = s.mem := rfl
@[simp] theorem enterMap_powerOn (s : State) (h : Half) (r : Nat) : (enterMap h r s).powerOn = s.powerOn := rfl
@[simp] theorem enterMap_frame (s : State) (h : Half) (r : Nat) : (enterMap h r s).frame = s.frame := rfl
@[simp] theorem enterMap_seq (s : State) (h : Half) (r : Nat) : (enterMap h r s).seq = { s.seq with phase := .map h, prev := none, res := some r, T := halfBase s.params h + r, col := 0 } := rfl
@[simp] theorem enterMap_armPort (s : State) (h : Half) (r : Nat) : (enterMap h r s).armPort = s.armPort := rfl
@[simp] theorem enterMap_inbox (s : State) (h : Half) (r : Nat) : (enterMap h r s).inbox = s.inbox := rfl
@[simp] theorem enterMap_out (s : State) (h : Half) (r : Nat) : (enterMap h r s).out = s.out := rfl

end Sys2Proof.Machine
end

