-- ==== Sys2Proof/Laws/Memory.lean ====
section
/-!
SUPPORT. The byte memory: read after write, the canonical form, and the cells in it (20_memory.md R53, R55).
-/

namespace Sys2Proof.Machine

namespace Memory

@[simp] theorem read_write_same (m : Memory) (a : Nat) (v : Byte) : (m.write a v).read a = some v := by
  induction m with
  | nil => simp [write, read]
  | cons e m ih =>
    obtain ⟨b, u⟩ := e
    unfold write
    split
    · simp [read]
    · split
      · simp [read]
      · simp [read, *]

theorem read_write_other (m : Memory) {a b : Nat} (v : Byte) (h : b ≠ a) : (m.write a v).read b = m.read b := by
  induction m with
  | nil => simp [write, read, h]
  | cons e m ih =>
    obtain ⟨c, u⟩ := e
    unfold write
    split
    · simp [read, h]
    · split
      · subst_vars; simp [read, h]
      · simp [read, ih]

/-- The addresses of a written memory. -/
theorem mem_write {m : Memory} {a : Nat} {v : Byte} {e : Host.Cell} (h : e ∈ m.write a v) : e = (a, v) ∨ e ∈ m := by
  induction m with
  | nil => simpa [write] using h
  | cons f m ih =>
    obtain ⟨b, u⟩ := f
    unfold write at h
    split at h
    · simpa using h
    · split at h
      · rcases List.mem_cons.1 h with h | h
        · exact .inl h
        · exact .inr (List.mem_cons_of_mem _ h)
      · rcases List.mem_cons.1 h with h | h
        · exact .inr (h ▸ List.mem_cons_self)
        · exact (ih h).imp id (List.mem_cons_of_mem _)

/-- Every write keeps the canonical form. -/
theorem write_wf {m : Memory} (a : Nat) (v : Byte) (h : m.wf) : (m.write a v).wf := by
  refine ⟨?_, by simp [unlisted]⟩
  have hs := h.1
  clear h
  induction m with
  | nil => simp [write]
  | cons e m ih =>
    obtain ⟨b, u⟩ := e
    rw [List.pairwise_cons] at hs
    unfold write
    split
    · rename_i hab
      refine List.pairwise_cons.2 ⟨fun f hf => ?_, List.pairwise_cons.2 hs⟩
      rcases List.mem_cons.1 hf with rfl | hf
      · exact hab
      · exact Nat.lt_trans hab (hs.1 f hf)
    · split
      · subst_vars; exact List.pairwise_cons.2 hs
      · refine List.pairwise_cons.2 ⟨fun f hf => ?_, ih hs.2⟩
        rcases mem_write hf with rfl | hf
        · simp only; omega
        · exact hs.1 f hf

theorem writeCell_wf {m : Memory} (k v : Nat) (h : m.wf) : (m.writeCell k v).wf := write_wf _ _ (write_wf _ _ h)

/-- A cell of index below `n` lies in the bytes below `2n`. -/
theorem writeCell_range {m : Memory} {k v n : Nat} (hk : k < n) (h : ∀ e ∈ m, e.1 < 2 * n) :
    ∀ e ∈ m.writeCell k v, e.1 < 2 * n := by
  intro e he
  rcases mem_write he with rfl | he
  · simp only [highByte]; omega
  · rcases mem_write he with rfl | he
    · simp only [lowByte]; omega
    · exact h e he

/-- A 16-bit value survives the split into two bytes. -/
theorem readCell_writeCell_same (m : Memory) (k : Nat) {v : Nat} (hv : v < 65536) :
    (m.writeCell k v).readCell k = some v := by
  have hne : lowByte k ≠ highByte k := by simp [lowByte, highByte]
  unfold writeCell readCell
  rw [read_write_other _ _ hne, read_write_same, read_write_same]
  simp only [BitVec.toNat_ofNat, Option.some.injEq]
  omega

theorem readCell_writeCell_other (m : Memory) {k j : Nat} (v : Nat) (h : j ≠ k) :
    (m.writeCell k v).readCell j = m.readCell j := by
  have hl : lowByte j ≠ lowByte k ∧ lowByte j ≠ highByte k := by constructor <;> simp only [lowByte, highByte] <;> omega
  have hh : highByte j ≠ lowByte k ∧ highByte j ≠ highByte k := by constructor <;> simp only [lowByte, highByte] <;> omega
  unfold writeCell readCell
  rw [read_write_other _ _ hl.2, read_write_other _ _ hl.1, read_write_other _ _ hh.2, read_write_other _ _ hh.1]

end Memory

/-! ### Cells of a state -/

/-- A cell depends on memory, the power-on and the parameters only. -/
theorem cell_congr {s t : State} (hm : t.mem = s.mem) (hp : t.params = s.params) (hn : t.powerOn = s.powerOn) (k : Nat) :
    t.cell k = s.cell k := by
  unfold State.cell State.powerOnCell
  rw [hm, hp, hn]

theorem cell_store_same (s : State) (k : Nat) {v : Nat} (hv : v < 65536) :
    ({ s with mem := s.mem.writeCell k v } : State).cell k = v := by
  simp [State.cell, Memory.readCell_writeCell_same _ _ hv]

theorem cell_store_other (s : State) {k j : Nat} (v : Nat) (h : j ≠ k) :
    ({ s with mem := s.mem.writeCell k v } : State).cell j = s.cell j := by
  simp only [State.cell, Memory.readCell_writeCell_other _ _ h]
  rfl

theorem bufRead_of_lt {s : State} {k : Nat} (h : k < s.params.L) : bufRead k s = some (s.cell k) := if_pos h

theorem bufRead_eq_some {s : State} {k v : Nat} : bufRead k s = some v ↔ k < s.params.L ∧ v = s.cell k := by
  unfold bufRead
  split <;> simp [*, eq_comm]

theorem bufRead_eq_none {s : State} {k : Nat} : bufRead k s = none ↔ s.params.L ≤ k := by
  unfold bufRead
  split <;> simp <;> omega

theorem bufWrite_of_lt {s : State} {k : Nat} (v : Nat) (h : k < s.params.L) :
    bufWrite k v s = some { s with mem := s.mem.writeCell k v } := if_pos h

theorem bufWrite_eq_some {s t : State} {k v : Nat} :
    bufWrite k v s = some t ↔ k < s.params.L ∧ t = { s with mem := s.mem.writeCell k v } := by
  unfold bufWrite
  split <;> simp [*, eq_comm]

end Sys2Proof.Machine
end

