-- ==== Sys2Proof/Laws/Operands.lean ====
section
/-!
SUPPORT. The ranges of the operand computations, and the parameters of a legal configuration (00_scope.md R7, R8).
-/

namespace Sys2Proof

namespace Params

variable {p : Params}

theorem valid.two_half (h : p.valid) : 2 * p.half = p.L := by
  have := h.2.1
  unfold half
  omega

theorem valid.half_pos (h : p.valid) : 1 ≤ p.half := by
  have := h.2.1
  unfold half
  omega

theorem valid.L_pos (h : p.valid) : 0 < p.L := by
  have := h.2.1
  omega

theorem valid.pow_le (h : p.valid) : 2 ^ p.adcBits ≤ 32768 := by
  calc 2 ^ p.adcBits ≤ 2 ^ 15 := Nat.pow_le_pow_right (by decide) h.1.2
    _ = 32768 := by decide

theorem valid.maxSample_lt (h : p.valid) : p.maxSample < 32768 := by
  have := h.pow_le
  have : 0 < 2 ^ p.adcBits := Nat.two_pow_pos _
  unfold maxSample
  omega

theorem valid.maxSample_pos (h : p.valid) : 1 ≤ p.maxSample := by
  have : 2 ^ 1 ≤ 2 ^ p.adcBits := Nat.pow_le_pow_right (by decide) h.1.1
  unfold maxSample
  omega

theorem lt_pow_iff_le_maxSample {v : Nat} : v < 2 ^ p.adcBits ↔ v ≤ p.maxSample := by
  have : 0 < 2 ^ p.adcBits := Nat.two_pow_pos _
  unfold maxSample
  omega

/-- The legal parameter sets, in the words of 00_scope.md R6 and R7. -/
theorem valid_iff :
    p.valid ↔
      1 ≤ p.adcBits ∧ p.adcBits ≤ 15 ∧ p.L % 2 = 0 ∧ 2 ≤ p.L ∧ 1 ≤ p.W ∧ 1 ≤ p.waveH ∧ p.resetLevel < 2 ^ p.adcBits := by
  rw [lt_pow_iff_le_maxSample]
  exact ⟨fun ⟨⟨h1, h2⟩, ⟨h3, h4⟩, h5⟩ => ⟨h1, h2, h3, h4, h5⟩, fun ⟨h1, h2, h3, h4, h5⟩ => ⟨⟨h1, h2⟩, ⟨h3, h4⟩, h5⟩⟩

end Params

namespace Machine

variable {p : Params}

theorem clamp_range {v lo hi : Int} (h : lo ≤ hi) : lo ≤ clamp v lo hi ∧ clamp v lo hi ≤ hi := by
  unfold clamp
  split
  · omega
  · split <;> omega

theorem clampLevel_le (p : Params) (level : Int) : clampLevel p level ≤ p.maxSample := by
  have := clamp_range (v := level) (lo := 0) (hi := p.maxSample) (by omega)
  unfold clampLevel
  omega

/-- The clamp of 45_trigger_config.md R191 as a case distinction. -/
theorem clampLevel_eq (p : Params) (level : Int) :
    clampLevel p level =
      if level < 0 then 0 else if (2 ^ p.adcBits - 1 : Nat) < level then 2 ^ p.adcBits - 1 else level.toNat := by
  unfold clampLevel clamp Params.maxSample
  split
  · rfl
  · split
    · exact Int.toNat_natCast _
    · rfl

theorem halfBase_add_lt (hp : p.valid) (h : Half) {i : Nat} (hi : i < p.half) : halfBase p h + i < p.L := by
  have := hp.two_half
  cases h <;> simp only [halfBase] <;> omega

theorem inHalf_base_add (hp : p.valid) (h : Half) {i : Nat} (hi : i < p.half) : inHalf p h (halfBase p h + i) = true := by
  have := hp.two_half
  cases h <;> simp [halfBase, inHalf] <;> omega

theorem nextIndex_lt (hp : p.valid) (k : Nat) : nextIndex p k < p.L := Nat.mod_lt _ hp.L_pos

theorem nextIndex_eq {k : Nat} (hk : k < p.L) : nextIndex p k = if k + 1 = p.L then 0 else k + 1 := by
  unfold nextIndex
  split
  · rename_i h; rw [h, Nat.mod_self]
  · exact Nat.mod_eq_of_lt (by omega)

theorem nextIndex_eq_half (hp : p.valid) {k : Nat} (hk : k < p.L) : nextIndex p k = p.half ↔ k + 1 = p.half := by
  have := hp.two_half
  have := hp.half_pos
  rw [nextIndex_eq hk]
  split <;> omega

theorem nextIndex_eq_zero {k : Nat} (hk : k < p.L) : nextIndex p k = 0 ↔ k + 1 = p.L := by
  rw [nextIndex_eq hk]
  split <;> omega

theorem windowIndex_lt (hp : p.valid) (T c : Nat) : windowIndex p T c < p.L := by
  have hL := hp.L_pos
  have h1 := Int.emod_nonneg ((T : Int) - p.lead + c) (b := (p.L : Int)) (by omega)
  have h2 := Int.emod_lt_of_pos ((T : Int) - p.lead + c) (b := (p.L : Int)) (by omega)
  unfold windowIndex windowIndexAt
  omega

theorem yOf_lt (hp : p.valid) (v : Nat) : yOf p v < p.waveH := by
  have hw : 1 ≤ p.waveH := hp.2.2.2.1
  have := clamp_range (v := yRaw p v) (lo := 0) (hi := (p.waveH : Int) - 1) (by omega)
  unfold yOf
  omega

theorem yOf_eq (hp : p.valid) (v : Nat) : (yOf p v : Int) = min (max (yRaw p v) 0) ((p.waveH : Int) - 1) := by
  have : 1 ≤ p.waveH := hp.2.2.2.1
  unfold yOf clamp
  split
  · rw [Int.toNat_of_nonneg] <;> omega
  · split <;> omega

theorem cursorAfter_lt (hp : p.valid) (res : Option Nat) : cursorAfter p res < p.half := by
  have := hp.half_pos
  cases res <;> simp only [cursorAfter] <;> omega

theorem crosses_disabled (lvl prev cur : Nat) : crosses .disabled lvl prev cur = false := rfl

end Machine

end Sys2Proof
end

