-- ==== Sys2Proof/Laws/PerInstr.lean ====
section
/-!
SUPPORT. One statement about every operation as syntax: the word it is encoded as is a word of its own row of
spec/opcode_table.json.
-/

namespace Sys2Proof.Laws.EncodedRow

/-- The row's `match` and `mask`. P_SAMPLE has neither: every pattern of ADC_BITS bits is one (30_encoding.md R87). -/
def row : Instr → Option (Word × Word)
  | .start => some (0x10000000, 0xFFFFFFFF)
  | .stop => some (0x20000000, 0xFFFFFFFF)
  | .isRunning => some (0x30000000, 0xFFFFFFFF)
  | .process => some (0x40000000, 0xFFFFFFFF)
  | .setTrigger _ _ => some (0x50000000, 0xFFFC0000)
  | .getTriggerLevel => some (0x60000000, 0xFFFFFFFF)
  | .getTriggerEdge => some (0x70000000, 0xFFFFFFFF)
  | .pSample _ => none

/-- `i` is encoded on the port of its row, and matches the row there. -/
def Statement (i : Instr) : Prop :=
  ∀ adcBits, adcBits ≤ 15 → i.WellFormed adcBits →
    match row i, encode i with
    | some (pattern, mask), .command w => w &&& mask = pattern
    | none, .sample w => w.toNat < 2 ^ adcBits
    | _, _ => False

theorem start : Statement .start := fun _ _ _ => rfl

theorem stop : Statement .stop := fun _ _ _ => rfl

theorem isRunning : Statement .isRunning := fun _ _ _ => rfl

theorem process : Statement .process := fun _ _ _ => rfl

theorem setTrigger (level : Int) (edge : Edge) : Statement (.setTrigger level edge) := by
  intro n _ _
  show commandWord 5 edge.code (BitVec.ofInt 16 level) &&& 0xFFFC0000 = 0x50000000
  generalize BitVec.ofInt 16 level = l
  apply BitVec.eq_of_getLsbD_eq
  intro i hi
  rw [BitVec.getLsbD_and, commandWord_getLsbD]
  have key : i < 18 ∨ (18 ≤ i ∧ i < 28) ∨ 28 ≤ i := by omega
  rcases key with h | h | h
  · have : (0xFFFC0000 : Word).getLsbD i = false ∧ (0x50000000 : Word).getLsbD i = false := by
      revert i; decide
    rw [this.1, this.2, Bool.and_false]
  · have : (0x50000000 : Word).getLsbD i = false := by revert i; decide
    rw [this, if_neg (by omega), if_neg (by omega), if_pos h.2, Bool.false_and]
  · rw [if_neg (by omega), if_neg (by omega), if_neg (by omega)]
    revert i
    decide

theorem getTriggerLevel : Statement .getTriggerLevel := fun _ _ _ => rfl

theorem getTriggerEdge : Statement .getTriggerEdge := fun _ _ _ => rfl

theorem pSample (v : Nat) : Statement (.pSample v) := by
  intro n hn (hv : v < 2 ^ n)
  have : 2 ^ n ≤ 2 ^ 15 := Nat.pow_le_pow_right (by decide) hn
  show (BitVec.ofNat 16 v).toNat < 2 ^ n
  rw [BitVec.toNat_ofNat, Nat.mod_eq_of_lt (by omega)]
  exact hv

end Sys2Proof.Laws.EncodedRow
end

