-- ==== Sys2Proof/Laws/Process.lean ====
section
/-!
SUPPORT. Everything one atomic step of a PROCESS can do, said once (44_capture_driver.md R169, R170): if `processStep` answers a
next state, that state is one of the cases of `Turns`.
-/

namespace Sys2Proof.Machine

/-- The cases of one atomic step of the PROCESS in progress, guards included. -/
inductive Turns (s : State) : State → Prop where
  | idle (hph : s.seq.phase = .idle) : Turns s s
  | testSet (h : Half) (hph : s.seq.phase = .test h) (hf : s.flag h = true) : Turns s ((s.putFlag h false).goto (.snap h))
  | testClear (h : Half) (hph : s.seq.phase = .test h) (hf : s.flag h = false) :
      Turns s ((s.putFlag h false).goto (afterHalf h))
  | snap (h : Half) (hph : s.seq.phase = .snap h) :
      Turns s (enterPair h (s.cursor h) (s.putSeq { s.seq with lvl := s.trigLevel, edg := s.trigEdge }))
  | readPrev (h : Half) (hph : s.seq.phase = .search h) (hp : s.seq.prev = none)
      (hlt : halfBase s.params h + s.seq.i < s.params.L) :
      Turns s (s.putSeq { s.seq with prev := some (s.cell (halfBase s.params h + s.seq.i)) })
  | hit (h : Half) (hph : s.seq.phase = .search h) (v : Nat) (hp : s.seq.prev = some v)
      (hlt : halfBase s.params h + s.seq.i + 1 < s.params.L)
      (hc : crosses s.seq.edg s.seq.lvl v (s.cell (halfBase s.params h + s.seq.i + 1)) = true) :
      Turns s (enterMap h (s.seq.i + 1) s)
  | miss (h : Half) (hph : s.seq.phase = .search h) (v : Nat) (hp : s.seq.prev = some v)
      (hlt : halfBase s.params h + s.seq.i + 1 < s.params.L)
      (hc : crosses s.seq.edg s.seq.lvl v (s.cell (halfBase s.params h + s.seq.i + 1)) = false) :
      Turns s (enterPair h (s.seq.i + 1) s)
  | column (h : Half) (hph : s.seq.phase = .map h) (hlt : windowIndex s.params s.seq.T s.seq.col < s.params.L)
      (hcol : s.seq.col + 1 < s.params.W) :
      Turns s
        { s with
          frame := s.frame.set s.seq.col (yOf s.params (s.cell (windowIndex s.params s.seq.T s.seq.col)))
          seq := { s.seq with col := s.seq.col + 1 } }
  | lastColumn (h : Half) (hph : s.seq.phase = .map h) (hlt : windowIndex s.params s.seq.T s.seq.col < s.params.L)
      (hcol : ¬ s.seq.col + 1 < s.params.W) :
      Turns s
        { s with
          frame := s.frame.set s.seq.col (yOf s.params (s.cell (windowIndex s.params s.seq.T s.seq.col)))
          seq := { s.seq with phase := .emit h } }
  | emit (h : Half) (hph : s.seq.phase = .emit h) : Turns s ((emitFrame s.frame s).goto (.commit h))
  | commit (h : Half) (hph : s.seq.phase = .commit h) :
      Turns s ((s.putCursor h (cursorAfter s.params s.seq.res)).goto (afterHalf h))
  | respond (hph : s.seq.phase = .respond) : Turns s ((respond .ok 0 s).goto .idle)

variable {s t : State} {h : Half}

/-! ### Which step a position takes -/

theorem processStep_idle (hph : s.seq.phase = .idle) : processStep s = .next s := by rw [processStep, hph]

theorem processStep_test (hph : s.seq.phase = .test h) : processStep s = stepTest h s := by rw [processStep, hph]

theorem processStep_snap (hph : s.seq.phase = .snap h) : processStep s = stepSnap h s := by rw [processStep, hph]

theorem processStep_search (hph : s.seq.phase = .search h) : processStep s = stepSearch h s := by rw [processStep, hph]

theorem processStep_map (hph : s.seq.phase = .map h) : processStep s = stepMap h s := by rw [processStep, hph]

theorem processStep_emit (hph : s.seq.phase = .emit h) : processStep s = stepEmit h s := by rw [processStep, hph]

theorem processStep_commit (hph : s.seq.phase = .commit h) : processStep s = stepCommit h s := by rw [processStep, hph]

theorem processStep_respond (hph : s.seq.phase = .respond) : processStep s = stepRespond s := by rw [processStep, hph]

/-! ### The reads, when they name a cell -/

theorem stepSearch_first (hp : s.seq.prev = none) (hlt : halfBase s.params h + s.seq.i < s.params.L) :
    stepSearch h s = .next (s.putSeq { s.seq with prev := some (s.cell (halfBase s.params h + s.seq.i)) }) := by
  unfold stepSearch
  rw [hp]
  simp only [bufRead_of_lt hlt]

theorem stepSearch_second {v : Nat} (hp : s.seq.prev = some v) (hlt : halfBase s.params h + s.seq.i + 1 < s.params.L) :
    stepSearch h s =
      if crosses s.seq.edg s.seq.lvl v (s.cell (halfBase s.params h + s.seq.i + 1)) then
        .next (enterMap h (s.seq.i + 1) s)
      else .next (enterPair h (s.seq.i + 1) s) := by
  unfold stepSearch
  rw [hp]
  simp only [bufRead_of_lt hlt]

theorem stepMap_read (hp : s.params.valid) :
    stepMap h s =
      .next
        { s with
          frame := s.frame.set s.seq.col (yOf s.params (s.cell (windowIndex s.params s.seq.T s.seq.col)))
          seq :=
            if s.seq.col + 1 < s.params.W then { s.seq with col := s.seq.col + 1 }
            else { s.seq with phase := .emit h } } := by
  unfold stepMap
  rw [bufRead_of_lt (windowIndex_lt hp _ _)]

/-! ### What a step leaves -/

theorem stepTest_turns (hph : s.seq.phase = .test h) (hs : stepTest h s = .next t) : Turns s t := by
  unfold stepTest testAndClear at hs
  cases hf : s.flag h <;> rw [hf] at hs <;> cases hs
  · exact .testClear h hph hf
  · exact .testSet h hph hf

theorem stepSearch_turns (hph : s.seq.phase = .search h) (hs : stepSearch h s = .next t) : Turns s t := by
  unfold stepSearch at hs
  split at hs
  · rename_i hp
    split at hs
    · cases hs
    · rename_i v hr
      obtain ⟨hlt, rfl⟩ := bufRead_eq_some.1 hr
      cases hs
      exact .readPrev h hph hp hlt
  · rename_i v hp
    split at hs
    · cases hs
    · rename_i c hr
      obtain ⟨hlt, rfl⟩ := bufRead_eq_some.1 hr
      split at hs <;> cases hs
      · exact .hit h hph v hp hlt ‹_›
      · exact .miss h hph v hp hlt (Bool.eq_false_of_not_eq_true ‹_›)

theorem stepMap_turns (hph : s.seq.phase = .map h) (hs : stepMap h s = .next t) : Turns s t := by
  unfold stepMap at hs
  split at hs
  · cases hs
  · rename_i v hr
    obtain ⟨hlt, rfl⟩ := bufRead_eq_some.1 hr
    cases hs
    split
    · exact .column h hph hlt ‹_›
    · exact .lastColumn h hph hlt ‹_›

theorem processStep_turns (hs : processStep s = .next t) : Turns s t := by
  unfold processStep at hs
  split at hs
  case h_1 hph => cases hs; exact .idle hph
  case h_2 h hph => exact stepTest_turns hph hs
  case h_3 h hph => cases hs; exact .snap h hph
  case h_4 h hph => exact stepSearch_turns hph hs
  case h_5 h hph => exact stepMap_turns hph hs
  case h_6 h hph => cases hs; exact .emit h hph
  case h_7 h hph => cases hs; exact .commit h hph
  case h_8 hph => cases hs; exact .respond hph

/-! ### What `Turns` keeps and puts out (10_state.md R36) -/

/-- The registers a PROCESS never writes. -/
theorem turns_keep (ht : Turns s t) :
    t.run = s.run ∧ t.trigLevel = s.trigLevel ∧ t.trigEdge = s.trigEdge ∧ t.wptr = s.wptr ∧ t.mem = s.mem ∧
      t.params = s.params ∧ t.powerOn = s.powerOn ∧ t.inbox = s.inbox ∧ t.armPort = s.armPort := by
  cases ht <;> simp

theorem turns_cell (ht : Turns s t) (k : Nat) : t.cell k = s.cell k := by
  obtain ⟨-, -, -, -, hm, hp, hn, -, -⟩ := turns_keep ht
  exact cell_congr hm hp hn k

theorem turns_frame_length (ht : Turns s t) : t.frame.length = s.frame.length := by
  cases ht <;> simp

/-- Nothing is put out but FRAME by the emit step and the response by the last step. -/
theorem turns_out (ht : Turns s t) :
    (t.out = s.out ∧ s.seq.phase ≠ .respond) ∨
      (∃ h, s.seq.phase = .emit h ∧ t.out = s.out ++ [.frame s.frame] ∧ t.seq.phase = .commit h) ∨
      (s.seq.phase = .respond ∧ t.out = s.out ++ [.response (responseWord .ok 0)] ∧ t.seq.phase = .idle) := by
  cases ht
  case emit h hph => exact .inr (.inl ⟨h, hph, rfl, rfl⟩)
  case respond hph => exact .inr (.inr ⟨hph, rfl, rfl⟩)
  all_goals exact .inl ⟨by simp, by simp [*]⟩

/-- A PROCESS in progress ends only with its response. -/
theorem turns_idle_iff (ht : Turns s t) (hph : s.seq.phase ≠ .respond) : t.seq.phase = .idle ↔ s.seq.phase = .idle := by
  cases ht
  case respond h => exact absurd h hph
  case testClear h _ _ => cases h <;> simp [*, afterHalf]
  case commit h _ => cases h <;> simp [*, afterHalf]
  case snap => unfold enterPair; split <;> simp [*]
  case miss => unfold enterPair; split <;> simp [*]
  all_goals simp [*]

end Sys2Proof.Machine
end

