-- ==== Sys2Proof/Laws/Step.lean ====
section
/-!
SUPPORT. Everything one step of the machine can do, said once: if `step` answers a next state, the head of the schedule was
delivered and the state is one of the cases of `Fires`.
-/

namespace Sys2Proof.Machine

/-- What P_SAMPLE leaves while Running (40_sample_source.md R101). -/
abbrev State.stored (s : State) (v : Nat) : State :=
  raiseFlags (nextIndex s.params s.wptr)
    { s with mem := s.mem.writeCell s.wptr v, wptr := nextIndex s.params s.wptr }

/-- The cases of an operation that is executed, guards included. -/
inductive Execs (s : State) : Instr → State → Prop where
  | startRunning (hi : s.seq.phase = .idle) (hr : s.run = .running) : Execs s .start (respond .ok 0 s)
  | startArmed (hi : s.seq.phase = .idle) (hr : s.run = .stopped) (ha : s.armPort = true) :
      Execs s .start (respond .ok 0 s.armed)
  | startFailed (hi : s.seq.phase = .idle) (hr : s.run = .stopped) (ha : s.armPort = false) :
      Execs s .start (respond .errHardware 0 s)
  | stop (hi : s.seq.phase = .idle) : Execs s .stop (respond .ok 0 { s with run := .stopped })
  | isRunning (hi : s.seq.phase = .idle) (v : Nat) (hv : v = if s.run = .running then 1 else 0) :
      Execs s .isRunning (respond .ok v s)
  | processStopped (hi : s.seq.phase = .idle) (hr : s.run = .stopped) : Execs s .process (s.goto .respond)
  | processRunning (hi : s.seq.phase = .idle) (hr : s.run = .running) : Execs s .process (s.goto (.test .h0))
  | setTrigger (level : Int) (edge : Edge) :
      Execs s (.setTrigger level edge) (respond .ok 0 (s.setTrig (clampLevel s.params level) edge))
  | getTriggerLevel (hi : s.seq.phase = .idle) : Execs s .getTriggerLevel (respond .ok s.trigLevel s)
  | getTriggerEdge (hi : s.seq.phase = .idle) : Execs s .getTriggerEdge (respond .ok s.trigEdge.code.toNat s)
  | dropped (v : Nat) (hr : s.run = .stopped) : Execs s (.pSample v) s
  | sample (v : Nat) (hr : s.run = .running) (hlt : s.wptr < s.params.L) : Execs s (.pSample v) (s.stored v)

/-- The cases of one delivered event (`none`: nothing was scheduled), in the state that no longer holds it. -/
inductive Fires (s : State) : Option Event → State → Prop where
  | arm (b : Bool) : Fires s (some (.arm b)) { s with armPort := b }
  | sample (w : SampleWord) (hw : w.toNat < 2 ^ s.params.adcBits) (t : State) (he : Execs s (.pSample w.toNat) t) :
      Fires s (some (.sample w)) t
  | command (a : Agent) (w : Word) (ha : a = .consumer → s.seq.phase = .idle) (i : Instr) (hd : decodeCommand w = .instr i)
      (t : State) (he : Execs s i t) : Fires s (some (.command a w)) t
  | reserved (a : Agent) (w : Word) (ha : a = .consumer → s.seq.phase = .idle) (r : Reserved)
      (hd : decodeCommand w = .reserved r) : Fires s (some (.command a w)) (respond .errIllegal 0 s)
  | turn (e : Option Event) (he : e = none ∨ e = some .turn) (t : State) (ht : Turns s t) : Fires s e t

variable {s t : State}

@[simp] theorem busy_eq_false : s.busy = false ↔ s.seq.phase = .idle := by simp [State.busy]

theorem whenIdle_eq_next {r : Host.Outcome State Fault Refusal} (h : whenIdle s r = .next t) :
    s.seq.phase = .idle ∧ r = .next t := by
  unfold whenIdle at h
  split at h
  · cases h
  · exact ⟨busy_eq_false.1 (Bool.eq_false_of_not_eq_true ‹_›), h⟩

theorem whenIdle_of_idle (h : s.seq.phase = .idle) (r : Host.Outcome State Fault Refusal) : whenIdle s r = r := by
  unfold whenIdle
  simp [busy_eq_false.2 h]

theorem execStart_execs (h : execStart s = .next t) : Execs s .start t := by
  obtain ⟨hi, h⟩ := whenIdle_eq_next h
  split at h
  · cases h; exact .startRunning hi ‹_›
  · split at h <;> cases h
    · exact .startArmed hi ‹_› ‹_›
    · exact .startFailed hi ‹_› (Bool.eq_false_of_not_eq_true ‹_›)

theorem execIsRunning_execs (h : execIsRunning s = .next t) : Execs s .isRunning t := by
  obtain ⟨hi, h⟩ := whenIdle_eq_next h
  split at h <;> cases h <;> rename_i hr
  · exact .isRunning hi 1 (by simp [hr])
  · exact .isRunning hi 0 (by simp [hr])

theorem execProcess_execs (h : execProcess s = .next t) : Execs s .process t := by
  obtain ⟨hi, h⟩ := whenIdle_eq_next h
  split at h <;> cases h
  · exact .processStopped hi ‹_›
  · exact .processRunning hi ‹_›

theorem execPSample_execs {v : Nat} (h : execPSample v s = .next t) : Execs s (.pSample v) t := by
  unfold execPSample at h
  split at h
  · cases h; exact .dropped v ‹_›
  · split at h
    · cases h
    · rename_i hr _ s1 hw
      obtain ⟨hlt, rfl⟩ := bufWrite_eq_some.1 hw
      cases h
      exact .sample v hr hlt

theorem exec_execs {i : Instr} (h : exec i s = .next t) : Execs s i t := by
  cases i with
  | start => exact execStart_execs h
  | stop => obtain ⟨hi, h⟩ := whenIdle_eq_next h; cases h; exact .stop hi
  | isRunning => exact execIsRunning_execs h
  | process => exact execProcess_execs h
  | setTrigger level edge => cases h; exact .setTrigger level edge
  | getTriggerLevel => obtain ⟨hi, h⟩ := whenIdle_eq_next h; cases h; exact .getTriggerLevel hi
  | getTriggerEdge => obtain ⟨hi, h⟩ := whenIdle_eq_next h; cases h; exact .getTriggerEdge hi
  | pSample v => exact execPSample_execs h

theorem takeCommand_fires {a : Agent} {w : Word} (ha : a = .consumer → s.seq.phase = .idle) (h : takeCommand w s = .next t) :
    Fires s (some (.command a w)) t := by
  cases hd : decodeCommand w <;> simp only [takeCommand, decode, hd] at h
  · exact .command a w ha _ hd t (exec_execs h)
  · cases h; exact .reserved a w ha _ hd

theorem takeSample_fires {w : SampleWord} (h : takeSample w s = .next t) : Fires s (some (.sample w)) t := by
  cases hd : decodeSample s.params.adcBits w <;> simp only [takeSample, decode, hd] at h
  · obtain ⟨rfl, hw⟩ := decodeSample_eq_instr.1 hd
    exact .sample w hw t (exec_execs h)
  · cases h

theorem deliver_fires {e : Event} (h : deliver e s = .next t) : Fires s (some e) t := by
  cases e with
  | command a w =>
    cases a with
    | consumer => obtain ⟨hi, h⟩ := whenIdle_eq_next h; exact takeCommand_fires (fun _ => hi) h
    | controller => exact takeCommand_fires (fun hc => nomatch hc) h
  | sample w => exact takeSample_fires h
  | arm b => cases h; exact .arm b
  | turn => exact .turn _ (.inr rfl) t (processStep_turns h)

/-- The state without the head of its schedule. -/
abbrev State.popped (s : State) : State := { s with inbox := s.inbox.tail }

theorem runTurn_fires (h : runTurn s = .next t) : Fires s.popped s.inbox.head? t := by
  unfold runTurn at h
  cases hib : s.inbox with
  | nil =>
    have : s.popped = s := by cases s; simp_all
    rw [hib] at h
    rw [this]
    exact .turn _ (.inl rfl) t (processStep_turns h)
  | cons e rest =>
    rw [hib] at h
    have : s.popped = { s with inbox := rest } := by simp [State.popped, hib]
    rw [this]
    exact deliver_fires h

/-- Everything a step can do. -/
theorem step_fires (h : step s = .next t) : s.params.valid ∧ Fires s.popped s.inbox.head? t := by
  unfold step at h
  split at h
  · exact ⟨‹_›, runTurn_fires h⟩
  · cases h

theorem step_of_valid (h : s.params.valid) : step s = runTurn s := if_pos h

theorem whenIdle_of_busy (h : s.seq.phase ≠ .idle) (r : Host.Outcome State Fault Refusal) :
    whenIdle s r = .refused .commandDuringProcess := by
  simp [whenIdle, State.busy, h]

/-! ### The producer step -/

theorem exec_pSample_running {v : Nat} (hr : s.run = .running) (hlt : s.wptr < s.params.L) :
    exec (.pSample v) s = .next (s.stored v) := by
  simp only [exec, execPSample]
  rw [hr]
  simp only [bufWrite_of_lt v hlt]

theorem cell_stored (s : State) (v k : Nat) :
    (s.stored v).cell k = ({ s with mem := s.mem.writeCell s.wptr v } : State).cell k := cell_congr rfl rfl rfl k

/-! ### What `Execs` and `Fires` keep -/

theorem execs_keep {i : Instr} (h : Execs s i t) :
    t.params = s.params ∧ t.powerOn = s.powerOn ∧ t.armPort = s.armPort ∧ t.inbox = s.inbox := by
  cases h <;> simp

/-- While a PROCESS is in progress nothing that is executed moves SEQ or a cursor, or the buffer unless it is a sample. -/
theorem execs_keep_of_busy {i : Instr} (h : Execs s i t) (hb : s.seq.phase ≠ .idle) :
    t.seq = s.seq ∧ t.cursor0 = s.cursor0 ∧ t.cursor1 = s.cursor1 ∧ ((∀ v, i ≠ .pSample v) → t.mem = s.mem) := by
  cases h <;> first | contradiction | simp

theorem fires_inbox {e : Option Event} (h : Fires s e t) : t.inbox = s.inbox := by
  cases h with
  | arm => rfl
  | sample _ _ _ hx => exact (execs_keep hx).2.2.2
  | command _ _ _ _ _ _ hx => exact (execs_keep hx).2.2.2
  | reserved => rfl
  | turn _ _ _ ht => exact (turns_keep ht).2.2.2.2.2.2.2.1

/-! ### The head of the schedule in the words of Safety.lean -/

theorem comesWord_of_head {a : Agent} {w : Word} (h : s.inbox.head? = some (.command a w)) : comesWord s w := by
  cases hi : s.inbox with
  | nil => rw [hi] at h; cases h
  | cons e rest => rw [hi] at h; cases h; exact ⟨_, _, hi⟩

theorem comesSample_of_head {w : SampleWord} (h : s.inbox.head? = some (.sample w)) : comesSample s := by
  cases hi : s.inbox with
  | nil => rw [hi] at h; cases h
  | cons e rest => rw [hi] at h; cases h; exact ⟨_, _, hi⟩

theorem comesTurn_of_head {e : Option Event} (h : s.inbox.head? = e) (he : e = none ∨ e = some .turn) : comesTurn s := by
  cases hi : s.inbox with
  | nil => exact .inl hi
  | cons f rest =>
    rw [hi] at h
    rcases he with rfl | rfl <;> cases h
    exact .inr ⟨_, hi⟩

/-! ### Responses and frames -/

theorem toNat_responseWord (st : Status) (v : Nat) : (responseWord st v).toNat = st.code.toNat * 2 ^ 28 + v % 2 ^ 16 := by
  unfold responseWord
  rw [BitVec.toNat_append, BitVec.toNat_append, ← Nat.shiftLeft_add_eq_or_of_lt (BitVec.isLt _),
    ← Nat.shiftLeft_add_eq_or_of_lt (BitVec.isLt _)]
  rw [show (0 : BitVec 12).toNat = 0 from rfl, BitVec.toNat_ofNat]
  simp only [Nat.shiftLeft_eq]
  omega

/-- An OK response shows its value (30_encoding.md R85). -/
theorem responseWord_ok {v : Nat} (h : v < 2 ^ 16) : responseWord .ok v = BitVec.ofNat 32 v := by
  apply BitVec.eq_of_toNat_eq
  rw [toNat_responseWord, BitVec.toNat_ofNat, show Status.ok.code.toNat = 0 from rfl]
  omega

@[simp] theorem responseWord_ok_zero : responseWord .ok 0 = 0x00000000 := by decide

@[simp] theorem responseWord_errHardware_zero : responseWord .errHardware 0 = 0x10000000 := by decide

@[simp] theorem responseWord_errIllegal_zero : responseWord .errIllegal 0 = 0x20000000 := by decide

theorem outputOk_response (p : Params) (st : Status) (v : Nat) : OutputOk p (.response (responseWord st v)) := by
  have : st.code.toNat ≤ 2 := by cases st <;> decide
  constructor <;> rw [toNat_responseWord] <;> omega

theorem responses_append {o : List Output} (h : t.out = s.out ++ o) :
    t.responses = s.responses ++ o.filterMap fun o =>
      match o with
      | .response w => some w
      | .frame _ => none := by
  exact (congrArg (List.filterMap _) h).trans (List.filterMap_append ..)

theorem frames_append {o : List Output} (h : t.out = s.out ++ o) :
    t.frames = s.frames ++ o.filterMap fun o =>
      match o with
      | .frame ys => some ys
      | .response _ => none := by
  exact (congrArg (List.filterMap _) h).trans (List.filterMap_append ..)

/-- An operation puts out no frame: only the emit step of a PROCESS does. -/
theorem execs_frames {i : Instr} (h : Execs s i t) : t.frames = s.frames := by
  cases h
  case dropped => rfl
  case sample => rfl
  case processStopped => rfl
  case processRunning => rfl
  all_goals exact (frames_append rfl).trans (List.append_nil _)

/-- The crossing test decides the crossings of 41_trigger_search.md R122 to R124. -/
theorem crosses_iff {edg : Edge} {lvl prev cur : Nat} : crosses edg lvl prev cur = true ↔ Crossing edg lvl prev cur := by
  cases edg <;> simp [crosses, Crossing]

end Sys2Proof.Machine
end

