-- ==== Sys2Proof/Laws/Run.lean ====
section
/-!
SUPPORT. Runs of several steps: how they compose, and one step when nothing is scheduled.
-/

namespace Sys2Proof.Machine

theorem run_add {m n : Nat} {s t : State} (h : run m s = .next t) : run (m + n) s = run n t := by
  induction m generalizing s with
  | zero => cases h; rw [Nat.zero_add]
  | succ m ih =>
    rw [Nat.succ_add, run]
    rw [run] at h
    cases hs : step s <;> rw [hs] at h
    · exact ih h
    · cases h
    · cases h

/-- The last step of a run. -/
theorem run_succ {n : Nat} {s t : State} (h : run (n + 1) s = .next t) : ∃ u, run n s = .next u ∧ step u = .next t := by
  induction n generalizing s with
  | zero =>
    rw [run] at h
    cases hs : step s <;> rw [hs] at h
    · exact ⟨s, rfl, hs.trans h⟩
    · cases h
    · cases h
  | succ n ih =>
    rw [run] at h
    cases hs : step s <;> rw [hs] at h
    · obtain ⟨u, hu, ht⟩ := ih h
      exact ⟨u, by rw [run, hs]; exact hu, ht⟩
    · cases h
    · cases h

/-- With nothing scheduled a step is the PROCESS's own. -/
theorem run_one_of_quiet {s t : State} (hv : s.params.valid) (hi : s.inbox = []) (h : processStep s = .next t) :
    run 1 s = .next t := by
  rw [run, step_of_valid hv, runTurn, hi]
  simp only [h]
  rfl

theorem turnsIn_succ (n : Nat) (l : List Event) :
    turnsIn (n + 1) l = turnsIn n l.tail + if l.head? = none ∨ l.head? = some .turn then 1 else 0 := by
  cases l with
  | nil => rfl
  | cons e l => cases e <;> simp [turnsIn]

end Sys2Proof.Machine
end

