-- ==== Sys2Proof/Tests/Slice0.lean ====
section
/-!
SUPPORT. Tests of the model on fixed values. The expected values are those of spec/95_test_vectors.md (the vector's name stands
at the theorem), of 30_encoding.md R93, or worked out by hand from the rule that is named. After them, one witness theorem for
each obligation that has hypotheses: a concrete state and operands that meet all of them together.
-/

namespace Sys2Proof.Tests

open Sys2Proof.Machine

/-! ### Small states -/

/-- Cells 0, 1, 2, ... of a buffer, written with `vs`. -/
def cells (vs : List Nat) : Memory := (vs.zipIdx).foldl (fun m e => m.writeCell e.2 e.1) []

/-- 8-bit samples, 4 cells, 2 columns, wave height 16. -/
def tiny : Params := ⟨8, 4, 2, 16, 0, .disabled⟩

/-- A running block with every cell written: both halves rise through 100, and H0 is complete. -/
def demo : State :=
  { State.resetWith tiny with
    run := .running
    mem := cells [10, 200, 20, 210]
    trigLevel := 100
    trigEdge := .rising
    halfFlag := true }

/-- `demo`, stopped. -/
def demoStopped : State := { demo with run := .stopped }

/-- `demo` at a position of SEQ, with a hit at 1 where the position has one. -/
def demoAt (ph : Phase) : State :=
  { demo with seq := { phase := ph, i := 0, prev := none, col := 0, T := 1, lvl := 100, edg := .rising, res := some 1 } }

/-- The document's test block: 8-bit samples, 16 cells (95_test_vectors.md). -/
def eight : Params := ⟨8, 16, 8, 64, 0, .disabled⟩

/-- The cells A of 95_test_vectors.md section 2, in H0. -/
def withA : State :=
  { State.resetWith eight with run := .running, mem := cells ([50, 60, 90, 150, 130, 80, 70, 60] ++ List.replicate 8 0) }

/-- The next state, if there is one. -/
def nextState : Host.Outcome State Fault Refusal → Option State
  | .next s => some s
  | _ => none

/-- `s` with `e` as the next event. -/
def withEvent (s : State) (e : Event) : State := { s with inbox := [e] }

theorem demo_cells : ∀ k, k < 4 → demo.cell k ≤ 255 := by decide

/-- `demo` meets the invariant. -/
theorem demo_inv : Inv demo where
  valid := by decide
  level := by decide
  cursors := fun h => by cases h <;> decide
  wptr := by decide
  memWf := by decide
  memRange := by decide
  cells := demo_cells
  frameLength := rfl
  seqOk := trivial
  outputs := fun _ h => nomatch h

/-- The positions of a PROCESS on `demo` that the witnesses use meet the invariant. -/
theorem demoAt_inv : ∀ ph ∈ [Phase.test .h0, .snap .h0, .search .h0, .map .h0, .commit .h0, .respond], Inv (demoAt ph) := by
  intro ph hph
  refine ⟨demo_inv.valid, demo_inv.level, fun h => ?_, demo_inv.wptr, demo_inv.memWf, demo_inv.memRange, demo_cells, rfl, ?_,
    fun _ h => nomatch h⟩
  · exact demo_inv.cursors h
  fin_cases hph
  · rfl
  · rfl
  · exact ⟨rfl, by decide, by decide, by decide, fun _ h => nomatch h⟩
  · exact ⟨rfl, by decide, ⟨1, rfl, by decide, by decide, rfl⟩, fun c _ h => absurd h (Nat.not_lt_zero c)⟩
  · exact ⟨rfl, fun r h => by cases h; decide⟩
  · trivial

/-! ### Well-formedness refuses ill-formed terms -/

theorem test_wellFormed_level_high : Instr.WellFormed 12 (.setTrigger 32767 .rising) ∧ ¬ Instr.WellFormed 12 (.setTrigger 32768 .rising) := by
  decide

theorem test_wellFormed_level_low : Instr.WellFormed 12 (.setTrigger (-32768) .falling) ∧ ¬ Instr.WellFormed 12 (.setTrigger (-32769) .falling) := by
  decide

theorem test_wellFormed_sample : Instr.WellFormed 12 (.pSample 4095) ∧ ¬ Instr.WellFormed 12 (.pSample 4096) := by decide

/-! ### Words written out field by field from 30_encoding.md R81 to R87: opcode, zero, edge, level -/

theorem test_decode_start : decodeCommand (0b0001#4 ++ 0b0000000000#10 ++ 0b00#2 ++ 0x0000#16) = .instr .start := by decide

theorem test_decode_stop : decodeCommand (0b0010#4 ++ 0b0000000000#10 ++ 0b00#2 ++ 0x0000#16) = .instr .stop := by decide

theorem test_decode_isRunning : decodeCommand (0b0011#4 ++ 0b0000000000#10 ++ 0b00#2 ++ 0x0000#16) = .instr .isRunning := by decide

theorem test_decode_process : decodeCommand (0b0100#4 ++ 0b0000000000#10 ++ 0b00#2 ++ 0x0000#16) = .instr .process := by decide

theorem test_decode_setTrigger : decodeCommand (0b0101#4 ++ 0b0000000000#10 ++ 0b01#2 ++ 0x0064#16) = .instr (.setTrigger 100 .rising) := by
  decide

theorem test_decode_setTrigger_lowest :
    decodeCommand (0b0101#4 ++ 0b0000000000#10 ++ 0b10#2 ++ 0x8000#16) = .instr (.setTrigger (-32768) .falling) := by
  decide

theorem test_decode_getTriggerLevel : decodeCommand (0b0110#4 ++ 0b0000000000#10 ++ 0b00#2 ++ 0x0000#16) = .instr .getTriggerLevel := by
  decide

theorem test_decode_getTriggerEdge : decodeCommand (0b0111#4 ++ 0b0000000000#10 ++ 0b00#2 ++ 0x0000#16) = .instr .getTriggerEdge := by
  decide

theorem test_decode_pSample : decodeSample 12 (0b0000#4 ++ 0b111111111110#12) = .instr (.pSample 4094) := by decide

theorem test_decode_sample_too_wide : decodeSample 12 (0b0001#4 ++ 0b000000000000#12) = .reserved .sampleWidth := by decide

/-- The reserved words of R86: opcodes 0, 8 and 15, one bit at each end of the zero field, an operand of START, edge code 3. -/
theorem test_decode_reserved :
    decodeCommand 0x00000000 = .reserved .opcode ∧ decodeCommand 0x80000000 = .reserved .opcode ∧
    decodeCommand 0xF0000000 = .reserved .opcode ∧ decodeCommand 0x58010064 = .reserved .reservedBits ∧
    decodeCommand 0x50050064 = .reserved .reservedBits ∧ decodeCommand 0x10020000 = .reserved .operandBits ∧
    decodeCommand 0x50030064 = .reserved .edgeCode := by
  decide

/-- A row of the opcode table as the host gives it. -/
theorem test_decodeTableWord :
    decodeTableWord 32 0x10000000 = some .start ∧ decodeTableWord 32 0x20000000 = some .stop ∧
    decodeTableWord 32 0x30000000 = some .isRunning ∧ decodeTableWord 32 0x40000000 = some .process ∧
    decodeTableWord 32 0x50000000 = some (.setTrigger 0 .disabled) ∧ decodeTableWord 32 0x60000000 = some .getTriggerLevel ∧
    decodeTableWord 32 0x70000000 = some .getTriggerEdge ∧ decodeTableWord 16 0 = some (.pSample 0) := by
  decide

/-- The first step after reset runs the word that was placed: L1 and L2 at reset, T1. -/
theorem test_first_step_after_reset :
    (nextState (step (State.reset.withFetchWord 32 0x10000000))).map (fun s => (s.run, s.out)) =
      some (.running, [.response 0x00000000]) ∧
    (nextState (step (State.reset.withFetchWord 32 0x30000000))).map (fun s => (s.run, s.out)) =
      some (.stopped, [.response 0x00000000]) ∧
    (nextState (step (State.reset.withFetchWord 32 0x50010064))).map (fun s => (s.trigLevel, s.trigEdge, s.out)) =
      some (100, .rising, [.response 0x00000000]) := by
  decide

/-! ### START, STOP, IS_RUNNING (95_test_vectors.md section 6) -/

/-- The state (Stopped,4,6,1,1,8) of the vectors L2 and L3. -/
def stoppedL : State :=
  { State.resetWith eight with cursor0 := 4, cursor1 := 6, halfFlag := true, fullFlag := true, wptr := 8 }

/-- The state (Running,4,6,1,0,11) of the vectors L4 and L5. -/
def runningL : State :=
  { State.resetWith eight with run := .running, cursor0 := 4, cursor1 := 6, halfFlag := true, wptr := 11 }

/-- The columns of the vectors' table, and the responses. -/
structure Shown where
  run : RunState
  cursors : Nat × Nat
  flags : Bool × Bool
  wptr : Nat
  out : List Output
  deriving DecidableEq

def shown (s : State) : Shown := ⟨s.run, (s.cursor0, s.cursor1), (s.halfFlag, s.fullFlag), s.wptr, s.out⟩

/-- L2. -/
theorem test_start_arms :
    (nextState (exec .start stoppedL)).map shown = some ⟨.running, (0, 0), (false, false), 0, [.response 0x00000000]⟩ := by
  decide

/-- L3, L4. -/
theorem test_start_reports_or_does_nothing :
    (nextState (exec .start { stoppedL with armPort := false })).map shown =
      some ⟨.stopped, (4, 6), (true, true), 8, [.response 0x10000000]⟩ ∧
    (nextState (exec .start { runningL with armPort := false })).map shown =
      some ⟨.running, (4, 6), (true, false), 11, [.response 0x00000000]⟩ := by
  decide

/-- L5. -/
theorem test_stop : (nextState (exec .stop runningL)).map shown = some ⟨.stopped, (4, 6), (true, false), 11, [.response 0x00000000]⟩ := by
  decide

/-- L7. -/
theorem test_isRunning : (nextState (exec .isRunning runningL)).map shown = some ⟨.running, (4, 6), (true, false), 11, [.response 0x00000001]⟩ := by
  decide

/-! ### SET_TRIGGER and the getters (95_test_vectors.md section 5) -/

/-- T5, T7, on the 12-bit block. -/
theorem test_setTrigger_clamps :
    (nextState (exec (.setTrigger 4096 .falling) State.reset)).map (fun s => (s.trigLevel, s.trigEdge)) = some (4095, .falling) ∧
    (nextState (exec (.setTrigger (-32768) .falling) State.reset)).map (fun s => (s.trigLevel, s.trigEdge)) = some (0, .falling) := by
  decide

/-- T9. -/
theorem test_getTriggerLevel :
    (nextState (exec .getTriggerLevel { State.reset with trigLevel := 4095 })).map (·.out) = some [.response 0x00000FFF] := by
  decide

/-- T10. -/
theorem test_getTriggerEdge :
    (nextState (exec .getTriggerEdge { State.reset with trigEdge := .falling })).map (·.out) = some [.response 0x00000002] := by
  decide

/-- L13: a reserved word. -/
theorem test_reserved_word :
    (nextState (step (withEvent runningL (.command .consumer 0x54010064)))).map shown =
      some ⟨.running, (4, 6), (true, false), 11, [.response 0x20000000]⟩ := by
  decide

/-! ### P_SAMPLE (95_test_vectors.md section 7) -/

/-- F2, the eighth sample; the byte view of 20_memory.md R55: cell 7 is bytes 14 and 15. -/
theorem test_pSample_completes_h0 :
    (nextState (exec (.pSample 0xABC) { State.reset with run := .running, wptr := 7 })).map
        (fun s => (s.wptr, s.halfFlag, s.fullFlag, s.mem)) =
      some (8, true, false, [(14, 0xBC), (15, 0x0A)]) := by
  decide

/-- F4, the sixteenth sample. -/
theorem test_pSample_wraps :
    (nextState (exec (.pSample 1) { State.reset with run := .running, wptr := 15, halfFlag := true })).map
        (fun s => (s.wptr, s.halfFlag, s.fullFlag)) =
      some (0, true, true) := by
  decide

/-! ### PROCESS -/

/-- L8: PROCESS while Stopped, its two steps. -/
theorem test_process_stopped :
    (nextState (exec .process stoppedL)).map (·.seq.phase) = some .respond ∧
    (nextState (processStep (stoppedL.goto .respond))).map shown = some ⟨.stopped, (4, 6), (true, true), 8, [.response 0x00000000]⟩ := by
  decide

/-- 44_capture_driver.md R170: the flag test of a complete half, and what the second read of a crossing pair leaves. -/
theorem test_process_steps :
    (nextState (processStep (demoAt (.test .h0)))).map (fun s => (s.halfFlag, s.seq.phase)) = some (false, .snap .h0) ∧
    (nextState (processStep { demoAt (.search .h0) with seq := { (demoAt (.search .h0)).seq with prev := some 10 } })).map
        (fun s => (s.seq.phase, s.seq.res, s.seq.T)) =
      some (.map .h0, some 1, 1) := by
  decide

/-- S1, S3, S4, S11, S12, S14 on the cells A. -/
theorem test_search :
    searchPure withA .h0 0 100 .rising = some 3 ∧ searchPure withA .h0 3 100 .rising = none ∧
    searchPure withA .h0 0 100 .falling = some 5 ∧ searchPure withA .h0 0 150 .rising = some 3 ∧
    searchPure withA .h0 0 151 .rising = none ∧ searchPure withA .h0 0 60 .falling = some 7 := by
  decide

/-- X3, W2, W3, W9. -/
theorem test_window :
    (List.range 8).map (windowIndexAt 16 4 2) = [14, 15, 0, 1, 2, 3, 4, 5] ∧
    (List.range 8).map (windowIndex eight 1) = [15, 0, 1, 2, 3, 4, 5, 6] ∧
    (List.range 8).map (windowIndex eight 15) = [13, 14, 15, 0, 1, 2, 3, 4] ∧
    (List.range 10).map (windowIndex ⟨8, 4, 10, 64, 0, .disabled⟩ 3) = [1, 2, 3, 0, 1, 2, 3, 0, 1, 2] := by
  decide

/-- Y1, Y2, Y4. -/
theorem test_scale :
    [0, 20, 21, 41, 1000, 2047, 2048, 4094, 4095].map (yOf ⟨12, 16, 8, 200, 0, .disabled⟩) =
      [199, 199, 199, 198, 152, 101, 100, 1, 0] ∧
    [0, 3, 4, 8, 50, 128, 254, 255].map (yOf eight) = [63, 63, 63, 62, 52, 32, 1, 0] ∧
    [0, 1].map (yOf ⟨1, 2, 1, 10, 0, .disabled⟩) = [9, 0] := by
  decide

/-! ### The weaker producer (40_sample_source.md R109) -/

/-- A half can be raised only when all of it has been written since. -/
theorem test_weak_producer :
    (pRaise .h0 ⟨demo, [0], [0]⟩).isSome = false ∧ (pRaise .h0 ⟨demo, [1, 0], [1, 0]⟩).isSome = true ∧
    (pRaise .h1 ⟨demo, [1, 0], [1, 0]⟩).isSome = false ∧ (pWrite 4 0 ⟨demo, [], []⟩).isSome = false := by
  decide

/-! ### Witnesses: every obligation that has hypotheses, one by one -/

theorem witness_DecodeOfEncodeIsIdentity :
    (12 ≤ 15 ∧ Instr.WellFormed 12 (.setTrigger (-32768) .falling)) ∧ (15 ≤ 15 ∧ Instr.WellFormed 15 (.pSample 32767)) := by
  decide

theorem witness_EncodeOfDecodeIsIdentity :
    decode 12 (.command 0x5001FFFB) = .instr (.setTrigger (-5) .rising) ∧ decode 12 (.sample 4095) = .instr (.pSample 4095) := by
  decide

/-- A word for each clause of R86, at its boundary, and a state in which it arrives. -/
theorem witness_ReservedWordIsAnsweredIllegal :
    (∀ w ∈ [0x0FFFFFFF, 0x80000000, 0x50040000, 0x58000000, 0x10000001, 0x70020000, 0x50030000], ReservedWord w) ∧
    demo.params.valid ∧ (withEvent demo (.command .consumer 0x80000000)).inbox = [.command .consumer 0x80000000] ∧
    demo.seq.phase = .idle := by
  refine ⟨?_, by decide, rfl, rfl⟩
  simp [ReservedWord]

theorem witness_StepRunsTheDeliveredWord :
    demo.params.valid ∧ demo.seq.phase = .idle ∧
    (withEvent demo (.command .consumer 0x20000000)).inbox = [.command .consumer 0x20000000] ∧
    decode 8 (.command 0x20000000) = .instr .stop ∧ decode 8 (.sample 255) = .instr (.pSample 255) ∧
    (withEvent demo .turn).inbox = [.turn] ∧ (withEvent demo (.arm false)).inbox = [.arm false] ∧ demo.inbox = [] ∧
    decode demo.params.adcBits (portWordOf 32 0x10000000) = .instr .start ∧
    decode demo.params.adcBits (portWordOf 16 255) = .instr (.pSample 255) := by
  decide

theorem witness_CommandsAreSerial :
    (demoAt (.test .h0)).params.valid ∧ (demoAt (.test .h0)).seq.phase ≠ .idle ∧ (demoAt .respond).seq.phase ≠ .idle ∧
    (withEvent (demoAt .respond) (.command .consumer 0x20000000)).inbox = [.command .consumer 0x20000000] ∧
    (withEvent (demoAt .respond) (.command .controller 0x50010064)).inbox = [.command .controller 0x50010064] ∧
    decodeCommand 0x50010064 = .instr (.setTrigger 100 .rising) := by
  decide

/-- The smallest and the widest legal sets, and sets that break one condition each. -/
theorem witness_InvalidParametersAreRefused :
    (∀ p ∈ ([⟨1, 2, 1, 1, 1, .disabled⟩, ⟨15, 2, 1, 1, 32767, .rising⟩] : List Params), p.valid) ∧
    (∀ p ∈ ([⟨0, 2, 1, 1, 0, .disabled⟩, ⟨16, 2, 1, 1, 0, .disabled⟩, ⟨8, 0, 1, 1, 0, .disabled⟩, ⟨8, 3, 1, 1, 0, .disabled⟩,
      ⟨8, 2, 0, 1, 0, .disabled⟩, ⟨8, 2, 1, 0, 0, .disabled⟩, ⟨8, 2, 1, 1, 256, .disabled⟩] : List Params), ¬ p.valid) := by
  decide

theorem witness_ResetState : tiny.valid ∧ 3 < tiny.L := by decide

theorem witness_StartArmsOrReports :
    demo.seq.phase = .idle ∧ demo.run = .running ∧ demoStopped.seq.phase = .idle ∧ demoStopped.run = .stopped ∧
    demoStopped.armPort = true ∧ ({ demoStopped with armPort := false } : State).armPort = false := by
  decide

theorem witness_StopHaltsAndKeepsTheRest : demo.seq.phase = .idle ∧ demoStopped.seq.phase = .idle := by decide

theorem witness_IsRunningReportsRun : demo.seq.phase = .idle ∧ demoStopped.seq.phase = .idle := by decide

theorem witness_SetTriggerStoresClampedPair :
    demo.params.valid ∧ demo.seq.phase = .idle ∧
    (withEvent demo (.command .consumer (commandWord 5 3 100))).inbox = [.command .consumer (commandWord 5 3 100)] := by
  decide

theorem witness_GetTriggerLevelReadsStoredLevel :
    demo.params.valid ∧ ({ demo with trigLevel := 255 } : State).trigLevel ≤ demo.params.maxSample ∧ demo.seq.phase = .idle := by
  decide

theorem witness_GetTriggerEdgeReadsStoredEdge :
    demo.seq.phase = .idle ∧ demo.trigEdge = .rising ∧ ({ demo with trigEdge := .falling } : State).trigEdge = .falling ∧
    tiny.valid ∧ (State.resetWith tiny).trigEdge = .disabled := by
  decide

theorem witness_PSampleWritesAdvancesAndFlags :
    demo.params.valid ∧ demo.run = .running ∧ ({ demo with wptr := 3 } : State).wptr < demo.params.L ∧
    255 ≤ demo.params.maxSample := by
  decide

theorem witness_StoppedSampleIsDroppedRestartAtCellZero :
    demoStopped.run = .stopped ∧ demoStopped.params.valid ∧ 255 ≤ demoStopped.params.maxSample ∧
    demoStopped.seq.phase = .idle ∧ demoStopped.armPort = true := by
  decide

theorem witness_SampleLiesLittleEndian :
    demo.params.valid ∧ demo.run = .running ∧ 255 ≤ demo.params.maxSample ∧ ∃ t, exec (.pSample 255) demo = .next t :=
  ⟨by decide, rfl, by decide, _, rfl⟩

theorem witness_FillFollowsTheContract :
    demo.params.valid ∧ demo.run = .running ∧ demo.wptr = 0 ∧ (∀ v ∈ [0, 255, 7, 8, 9, 10], v ≤ demo.params.maxSample) := by
  decide

theorem witness_LostSignalLeavesNoTrace :
    demo.params.valid ∧ demo.run = .running ∧ ({ demo with wptr := 1 } : State).wptr + 1 = demo.params.half ∧
    ({ demo with wptr := 3 } : State).wptr + 1 = demo.params.L ∧ ({ demo with wptr := 3 } : State).wptr < demo.params.L := by
  decide

theorem witness_WeakerProducerFollows :
    (demoStopped.params.valid ∧ demoStopped.seq.phase = .idle ∧ demoStopped.run = .stopped ∧
      ∃ t, exec .start demoStopped = .next t ∧ t.run = .running) ∧
    (demo.params.valid ∧ demo.run = .running ∧ demo.wptr < demo.params.L ∧ 255 ≤ demo.params.maxSample ∧
      Follows demo (WeakState.atStart demo) ∧ ∃ t, exec (.pSample 255) demo = .next t) :=
  ⟨⟨by decide, rfl, rfl, _, rfl, rfl⟩,
    by decide, rfl, by decide, by decide, ⟨rfl, fun _ _ _ _ h => absurd h (Nat.not_lt_zero _)⟩, _, rfl⟩

theorem witness_ProcessReadsRunFirst : demo.seq.phase = .idle ∧ demo.run = .running := by decide

theorem witness_ProcessWhileStoppedOnlyAnswers :
    (demoStopped.seq.phase = .idle ∧ demoStopped.run = .stopped) ∧ (demoAt (.snap .h1)).seq.phase ≠ .idle ∧
    ∃ t, step (demoAt (.snap .h1)) = .next t :=
  ⟨⟨rfl, rfl⟩, by decide, _, rfl⟩

theorem witness_FlagIsTestedAndClearedInOneStep :
    (demoAt (.test .h0)).seq.phase = .test .h0 ∧ (demoAt (.test .h0)).halfFlag = true ∧
    ({ demoAt (.test .h0) with halfFlag := false } : State).halfFlag = false ∧
    (demoAt (.test .h1)).seq.phase = .test .h1 ∧ (demoAt (.test .h1)).fullFlag = false ∧
    ({ demoAt (.test .h1) with fullFlag := true } : State).fullFlag = true := by
  decide

/-- A scan of one pair, and the two empty ones: past the last pair, and Disabled. -/
theorem witness_SnapshotStartsTheScanAtTheCursor :
    (demoAt (.snap .h0)).seq.phase = .snap .h0 ∧ (demoAt (.snap .h0)).cursor .h0 + 1 < demo.params.half ∧
    (demoAt (.snap .h0)).trigEdge ≠ .disabled ∧
    ¬ (({ demoAt (.snap .h0) with cursor0 := 1 } : State).cursor .h0 + 1 < demo.params.half ∧ demo.trigEdge ≠ .disabled) ∧
    ¬ (demo.cursor .h0 + 1 < demo.params.half ∧ ({ demo with trigEdge := .disabled } : State).trigEdge ≠ .disabled) := by
  decide

/-- The first read, a crossing, no crossing at the last pair (HALF = 2) and before it (HALF = 8). -/
theorem witness_ScanReadsPairsAfresh :
    ((demoAt (.search .h0)).params.valid ∧ (demoAt (.search .h0)).seq.phase = .search .h0 ∧
      (demoAt (.search .h0)).seq.i + 1 < demo.params.half ∧ (demoAt (.search .h0)).seq.edg ≠ .disabled ∧
      (demoAt (.search .h0)).seq.prev = none) ∧
    Crossing .rising 100 10 (demo.cell 1) ∧ (¬ Crossing .rising 100 150 (demo.cell 1) ∧ demo.params.half ≤ 0 + 2) ∧
    (¬ Crossing .rising 100 50 (withA.cell 1) ∧ 0 + 2 < withA.params.half) := by
  unfold Crossing
  decide

theorem witness_ColumnIsReadScaledAndStored :
    (demoAt (.map .h0)).params.valid ∧ (demoAt (.map .h0)).seq.phase = .map .h0 ∧
    (demoAt (.map .h0)).seq.col + 1 < demo.params.W ∧
    ({ (demoAt (.map .h0)).seq with col := 1 } : Sequencer).col + 1 = demo.params.W := by
  decide

theorem witness_EmitCommitAndRespond :
    (demoAt (.emit .h0)).seq.phase = .emit .h0 ∧ (demoAt (.commit .h0)).seq.phase = .commit .h0 ∧
    (demoAt (.commit .h0)).seq.res = some 1 ∧ ({ (demoAt (.commit .h1)).seq with res := none } : Sequencer).res = none ∧
    (demoAt (.commit .h1)).seq.phase = .commit .h1 ∧ (demoAt .respond).seq.phase = .respond := by
  decide

theorem witness_ProcessStepFrame : ∃ t, processStep (demoAt (.test .h0)) = .next t := ⟨_, rfl⟩

/-- A later hit from the cursor that a hit at 3 left, and the hit at the last cell. -/
theorem witness_CursorPreventsRefind :
    3 < withA.params.half ∧ searchPure withA .h0 (min (3 + 1) (withA.params.half - 1)) 100 .falling = some 5 ∧
    7 < withA.params.half ∧ 7 = withA.params.half - 1 := by
  decide

theorem witness_SearchCornerCases :
    demo.params.valid ∧ (∀ k, k < demo.params.L → demo.cell k ≤ demo.params.maxSample) ∧
    (∀ k, inHalf tiny .h0 k = true → k < 4 → ({ demo with mem := cells [7, 7, 8, 9] } : State).cell k = 7) := by
  refine ⟨by decide, demo_cells, fun k hk hk4 => ?_⟩
  revert hk
  revert k
  decide

theorem witness_WindowIndexIsTrueModulo : 0 < 16 ∧ tiny.valid ∧ 3 < tiny.L := by decide

/-- The clamp acts at 0 and not at MAX_SAMPLE. -/
theorem witness_ScaleIsInvertedAndClamped :
    tiny.valid ∧ 255 ≤ tiny.maxSample ∧ 0 * tiny.waveH < tiny.maxSample ∧ 15 * tiny.waveH < tiny.maxSample ∧
    tiny.maxSample ≤ 16 * tiny.waveH := by
  decide

theorem witness_QuietProcessIsProcessAtomic : Inv demo ∧ demo.seq.phase = .idle ∧ demo.inbox = [] :=
  ⟨demo_inv, rfl, rfl⟩

/-- Two steps of the PROCESS of `demo`, and its last position. -/
theorem witness_ProcessEndsWithinItsBound :
    (Inv (demoAt .respond) ∧ (demoAt .respond).seq.phase ≠ .idle) ∧ Inv demo ∧ ∃ s0 t, exec .process demo = .next s0 ∧ run 2 s0 = .next t ∧
      ∀ m u, m ≤ 2 → run m s0 = .next u → u.seq.phase ≠ .idle := by
  refine ⟨⟨demoAt_inv _ (by decide), by decide⟩, demo_inv, _, _, rfl, rfl, fun m u hm hu => ?_⟩
  have key : m = 0 ∨ m = 1 ∨ m = 2 := by omega
  rcases key with rfl | rfl | rfl <;> cases hu <;> decide

/-- The search of H0 of `demo` from its snapshot to its hit. -/
theorem witness_UninterruptedSearchReturnsFirstCrossing :
    Inv (demoAt (.snap .h0)) ∧ (demoAt (.snap .h0)).seq.phase = .snap .h0 ∧
    ∃ t, run 3 (demoAt (.snap .h0)) = .next t ∧
      (∀ m u, m < 3 → run m (demoAt (.snap .h0)) = .next u →
        (inHalf u.params .h0 u.wptr = true → ¬ comesSample u) ∧ (u.seq.phase = .snap .h0 ∨ u.seq.phase = .search .h0)) ∧
      t.seq.phase = .map .h0 := by
  refine ⟨demoAt_inv _ (by decide), rfl, _, rfl, fun m u hm hu => ?_, rfl⟩
  have key : m = 0 ∨ m = 1 ∨ m = 2 := by omega
  rcases key with rfl | rfl | rfl <;> cases hu <;> refine ⟨fun _ h => ?_, by decide⟩ <;> obtain ⟨_, _, h⟩ := h <;> cases h

/-- A sample that completes H0, and an event that completes nothing. -/
theorem witness_EachFrameNeedsACompletedHalf :
    (∃ t, step (withEvent { demo with wptr := 1 } (.sample 9)) = .next t) ∧
    completesHalf (withEvent { demo with wptr := 1 } (.sample 9)) ∧
    (∃ t, step (withEvent demo (.arm false)) = .next t) ∧ ¬ completesHalf (withEvent demo (.arm false)) :=
  ⟨⟨_, rfl⟩, ⟨rfl, ⟨9, [], rfl⟩, .inl rfl⟩, ⟨_, rfl⟩, fun ⟨_, ⟨_, _, h⟩, _⟩ => nomatch h⟩

theorem witness_HalfZeroIsServedFirst :
    (∃ t, step (demoAt (.test .h0)) = .next t) ∧ handling .h0 (demoAt (.test .h0)) ∧
    ({ demoAt (.test .h0) with fullFlag := true } : State).fullFlag = true ∧
    (∃ t, step (demoAt (.commit .h1)) = .next t) ∧ handling .h1 (demoAt (.commit .h1)) ∧
    (demoAt (.commit .h1)).halfFlag = true :=
  ⟨⟨_, rfl⟩, .inl rfl, rfl, ⟨_, rfl⟩, .inr (.inr (.inr (.inr (.inr rfl)))), rfl⟩

/-- A START that arms and a STOP, each the step that changes RUN. -/
theorem witness_RunChangesOnlyByStartAndStop :
    (∃ t, step (withEvent demoStopped (.command .consumer 0x10000000)) = .next t ∧ demoStopped.run = .stopped ∧
      t.run = .running) ∧
    ∃ t, step (withEvent demo (.command .consumer 0x20000000)) = .next t ∧ demo.run = .running ∧ t.run = .stopped :=
  ⟨⟨_, rfl, rfl, rfl⟩, _, rfl, rfl, rfl⟩

theorem witness_TriggerChangesOnlyBySetTrigger :
    ∃ t, step (withEvent demo (.command .controller 0x50020007)) = .next t ∧ (t.trigLevel ≠ 100 ∧ t.trigEdge ≠ .rising) :=
  ⟨_, rfl, by decide⟩

/-- A sample changes the buffer and WPTR, a START changes WPTR. -/
theorem witness_OnlyTheProducerWritesTheBuffer :
    (∃ t, step (withEvent demo (.sample 9)) = .next t ∧ t.mem ≠ demo.mem ∧ t.wptr ≠ demo.wptr) ∧
    ∃ t, step (withEvent { demoStopped with wptr := 3 } (.command .consumer 0x10000000)) = .next t ∧ t.wptr ≠ 3 :=
  ⟨⟨_, rfl, by decide, by decide⟩, _, rfl, by decide⟩

theorem witness_CursorChangesOnlyAtCommitOrStart :
    (∃ t, step { demoAt (.commit .h1) with cursor1 := 0 } = .next t ∧ t.cursor .h1 ≠ 0) ∧
    ∃ t, step (withEvent { demoStopped with cursor0 := 1 } (.command .consumer 0x10000000)) = .next t ∧ t.cursor .h0 ≠ 1 :=
  ⟨⟨_, rfl, by decide⟩, _, rfl, by decide⟩

/-- The flag of H1 set by the sample at cell 3, and the flag of H0 cleared by its test. -/
theorem witness_FlagsAreSetByFillsOnly :
    (∃ t, step (withEvent { demo with wptr := 3 } (.sample 9)) = .next t ∧ demo.flag .h1 = false ∧ t.flag .h1 = true) ∧
    ∃ t, step (demoAt (.test .h0)) = .next t ∧ (demoAt (.test .h0)).flag .h0 = true ∧ t.flag .h0 = false :=
  ⟨⟨_, rfl, rfl, rfl⟩, _, rfl, rfl, rfl⟩

theorem witness_SnapshotIsKeptDuringASearch :
    ∃ t, step { demoAt (.snap .h0) with trigLevel := 7, trigEdge := .falling } = .next t ∧ t.seq.lvl ≠ 100 ∧ t.seq.edg ≠ .rising :=
  ⟨_, rfl, by decide, by decide⟩

theorem witness_StoppedBlockKeepsItsBuffer :
    (∃ t, step (withEvent demoStopped (.sample 9)) = .next t) ∧ demoStopped.run = .stopped ∧ ¬ handling .h0 demoStopped ∧
    ¬ handling .h1 demoStopped := by
  refine ⟨⟨_, rfl⟩, rfl, ?_, ?_⟩ <;> unfold handling <;> decide

theorem witness_OutputsOnlyGrow : ∃ t, step (demoAt .respond) = .next t := ⟨_, rfl⟩

theorem witness_FramesComeFromEmitOnly : ∃ t, step (demoAt (.emit .h0)) = .next t ∧ t.frames ≠ demo.frames :=
  ⟨_, rfl, by decide⟩

theorem witness_OneResponsePerCommand :
    ((∃ t, step (withEvent demo (.command .consumer 0x40000000)) = .next t) ∧
      ∃ w, comesWord (withEvent demo (.command .consumer 0x40000000)) w) ∧
    (∃ t, step (demoAt .respond) = .next t) ∧ ¬ ∃ w, comesWord (demoAt .respond) w :=
  ⟨⟨⟨_, rfl⟩, _, _, _, rfl⟩, ⟨_, rfl⟩, fun ⟨_, _, _, h⟩ => nomatch h⟩

theorem witness_ResetMeetsInvariant : tiny.valid ∧ Params.example12.valid := by decide

theorem witness_StepKeepsInvariant : Inv (demoAt (.map .h0)) ∧ ∃ t, step (demoAt (.map .h0)) = .next t :=
  ⟨demoAt_inv _ (by decide), _, rfl⟩

/-- The three cases: a next state, a command during a PROCESS, a sample wider than the port. -/
theorem witness_NoStepFaults :
    Inv demo ∧ (∃ t, step demo = .next t) ∧ Inv (demoAt .respond) ∧
    step (withEvent (demoAt .respond) (.command .consumer 0x10000000)) = .refused .commandDuringProcess ∧
    step (withEvent demo (.sample 256)) = .refused .sampleWiderThanPort :=
  ⟨demo_inv, ⟨_, rfl⟩, demoAt_inv _ (by decide), rfl, rfl⟩

theorem witness_MemoryReadsBackWhatWasWritten : demo.mem.wf ∧ 65535 < 2 ^ 16 ∧ 4 ≠ 5 := by decide

/-- Two different states of a stopped block that answer alike. -/
theorem witness_StoppedRegistersAreUnobservable :
    EqualToStart demoStopped { demoStopped with cursor0 := 1, halfFlag := false, wptr := 2 } ∧
    demoStopped ≠ { demoStopped with cursor0 := 1, halfFlag := false, wptr := 2 } :=
  ⟨.inr ⟨rfl, .inl rfl, rfl⟩, by decide⟩

/-- Two different states with other dead work values, before the scan and in the middle of a mapping. -/
theorem witness_DeadWorkValuesAreUnobservable :
    Inv (demoAt (.snap .h0)) ∧
    EqualButDead (demoAt (.snap .h0))
      { demoAt (.snap .h0) with seq := { (demoAt (.snap .h0)).seq with i := 1, T := 3, lvl := 0 }, frame := [5, 6] } ∧
    demoAt (.snap .h0) ≠
      { demoAt (.snap .h0) with seq := { (demoAt (.snap .h0)).seq with i := 1, T := 3, lvl := 0 }, frame := [5, 6] } ∧
    Inv (demoAt (.map .h0)) ∧
    EqualButDead (demoAt (.map .h0)) { demoAt (.map .h0) with seq := { (demoAt (.map .h0)).seq with i := 1 }, frame := [5, 6] } :=
  ⟨demoAt_inv _ (by decide), ⟨rfl, ⟨rfl, trivial⟩, rfl⟩, by decide, demoAt_inv _ (by decide), rfl, ⟨rfl, rfl, rfl, rfl⟩, rfl,
    fun c h => absurd h (Nat.not_lt_zero c)⟩

end Sys2Proof.Tests
end

section
/-!
PROOFS. The window mapper: the index formula with the document's two truncating remainders (42_window_mapper.md R138), and the
scale with its clamp (42_window_mapper.md R140 to R142).
-/

theorem Sys2Proof.Params.valid.waveH_pos {p : Sys2Proof.Params} (h : p.valid) : 1 ≤ p.waveH := by
  obtain ⟨_, _, _, hw, _⟩ := h
  exact hw

namespace Sys2Proof.Machine

/-! ### The index of a column -/

/-- The reason of R138: `a.tmod L + L` is positive, where the truncating remainder is the true one, and differs from `a` by a
multiple of `L`. -/
theorem tmod_add_tmod_eq_emod {L : Int} (hL : 0 < L) (a : Int) : (a.tmod L + L).tmod L = a % L := by
  have hpos : 0 ≤ a.tmod L + L := by
    have := Int.lt_tmod_of_pos a hL
    omega
  calc (a.tmod L + L).tmod L
      = (a.tmod L + L) % L := Int.tmod_eq_emod_of_nonneg hpos
    _ = a.tmod L % L := Int.add_emod_right _ _
    _ = (a - L * a.tdiv L) % L := by rw [Int.tmod_def]
    _ = a % L := Int.sub_mul_emod_self_left _ _ _

theorem windowIndexAt_cast {L : Nat} (hL : 0 < L) (lead T c : Nat) :
    (windowIndexAt L lead T c : Int) = ((T : Int) - lead + c) % L :=
  Int.toNat_of_nonneg (Int.emod_nonneg _ (by omega))

theorem windowIndexAt_lt {L : Nat} (hL : 0 < L) (lead T c : Nat) : windowIndexAt L lead T c < L := by
  have := Int.emod_lt_of_pos ((T : Int) - lead + c) (b := (L : Int)) (by omega)
  rw [← windowIndexAt_cast hL] at this
  exact Int.ofNat_lt.mp this

theorem windowIndexAt_congr {L : Nat} (hL : 0 < L) (lead T c : Nat) :
    ∃ q : Int, (T : Int) - lead + c = q * L + windowIndexAt L lead T c :=
  ⟨((T : Int) - lead + c) / L, by rw [windowIndexAt_cast hL, Int.ediv_mul_add_emod]⟩

/-- Column `lead` of the window reads the trigger cell (42_window_mapper.md R138). -/
theorem windowIndexAt_lead {L T : Nat} (hT : T < L) (lead : Nat) : windowIndexAt L lead T lead = T := by
  have h := windowIndexAt_cast (by omega : 0 < L) lead T lead
  rw [Int.sub_add_cancel, Int.emod_eq_of_lt (by omega) (by omega)] at h
  exact Int.ofNat_inj.mp h

/-- Settles O32: the index is the true remainder, which the document's formula computes as well. -/
theorem windowIndexIsTrueModulo : Obligations.WindowIndexIsTrueModulo := by
  refine ⟨fun L lead T c hL => ⟨?_, windowIndexAt_lt hL .., windowIndexAt_congr hL ..⟩,
    fun p T _ hT => windowIndexAt_lead hT p.lead, by decide⟩
  rw [windowIndexAt_cast hL, tmod_add_tmod_eq_emod (by omega)]

/-! ### The scale -/

section

variable {p : Params} {u v : Nat}

theorem quotient_le_waveH (hp : p.valid) (hv : v ≤ p.maxSample) : v * p.waveH / p.maxSample ≤ p.waveH :=
  calc v * p.waveH / p.maxSample
      ≤ p.maxSample * p.waveH / p.maxSample := Nat.div_le_div_right (Nat.mul_le_mul_right _ hv)
    _ = p.waveH := Nat.mul_div_cancel_left _ hp.maxSample_pos

/-- The range of `yraw` on samples in range (42_window_mapper.md R141). -/
theorem yRaw_range (hp : p.valid) (hv : v ≤ p.maxSample) : 0 ≤ yRaw p v ∧ yRaw p v ≤ p.waveH := by
  have hq : ((v * p.waveH / p.maxSample : Nat) : Int) ≤ p.waveH := Int.ofNat_le.mpr (quotient_le_waveH hp hv)
  exact ⟨Int.sub_nonneg_of_le hq, Int.sub_le_self _ (Int.natCast_nonneg _)⟩

theorem yRaw_of_mul_lt (h : v * p.waveH < p.maxSample) : yRaw p v = p.waveH := by
  rw [yRaw, Nat.div_eq_of_lt h, Int.ofNat_zero, Int.sub_zero]

theorem yRaw_lt_of_le_mul (hp : p.valid) (h : p.maxSample ≤ v * p.waveH) : yRaw p v < p.waveH := by
  have : 0 < v * p.waveH / p.maxSample := Nat.div_pos h hp.maxSample_pos
  unfold yRaw
  omega

theorem yRaw_maxSample (hp : p.valid) : yRaw p p.maxSample = 0 := by
  rw [yRaw, Nat.mul_div_cancel_left _ hp.maxSample_pos, Int.sub_self]

theorem yRaw_antitone (h : u ≤ v) : yRaw p v ≤ yRaw p u := by
  have : u * p.waveH / p.maxSample ≤ v * p.waveH / p.maxSample := Nat.div_le_div_right (Nat.mul_le_mul_right _ h)
  unfold yRaw
  omega

/-- The one case where the clamp acts on a sample in range (42_window_mapper.md R141). -/
theorem yOf_of_mul_lt (hp : p.valid) (h : v * p.waveH < p.maxSample) : yOf p v = p.waveH - 1 := by
  have hw : 1 ≤ p.waveH := hp.waveH_pos
  have hy := yOf_eq hp v
  rw [yRaw_of_mul_lt h] at hy
  omega

theorem yOf_of_le_mul (hp : p.valid) (hv : v ≤ p.maxSample) (h : p.maxSample ≤ v * p.waveH) : (yOf p v : Int) = yRaw p v := by
  have hlo := (yRaw_range hp hv).1
  have hhi := yRaw_lt_of_le_mul hp h
  rw [yOf_eq hp]
  omega

theorem yOf_zero (hp : p.valid) : yOf p 0 = p.waveH - 1 :=
  yOf_of_mul_lt hp (by rw [Nat.zero_mul]; exact hp.maxSample_pos)

theorem yOf_maxSample (hp : p.valid) : yOf p p.maxSample = 0 := by
  have hle : p.maxSample ≤ p.maxSample * p.waveH := Nat.le_mul_of_pos_right _ hp.waveH_pos
  have h := yOf_of_le_mul hp le_rfl hle
  rw [yRaw_maxSample hp] at h
  omega

theorem yOf_antitone (hp : p.valid) (h : u ≤ v) : yOf p v ≤ yOf p u := by
  have hraw := yRaw_antitone (p := p) h
  have hu := yOf_eq hp u
  have hv := yOf_eq hp v
  omega

end

/-- Settles O33: the quotient lies in [0, WAVE_H], so the clamp acts only where the quotient is 0. -/
theorem scaleIsInvertedAndClamped : Obligations.ScaleIsInvertedAndClamped := fun _ v hp hv =>
  ⟨yRaw_range hp hv, rfl, yOf_of_mul_lt hp, yOf_of_le_mul hp hv, yOf_lt hp v, yOf_zero hp, yOf_maxSample hp,
    fun _ hu => yOf_antitone hp hu⟩

end Sys2Proof.Machine
end

section
/-!
PROOFS. The capture driver's RUN register: what a step can do to RUN (44_capture_driver.md R165), the answer of IS_RUNNING (R168),
and PROCESS while Stopped (R175).
-/

namespace Sys2Proof.Machine

variable {s t : State}

/-! ### What can change RUN -/

/-- Of the operations only a START that arms and a STOP touch RUN, and neither is executed during a PROCESS. -/
theorem execs_run {i : Instr} (h : Execs s i t) :
    t.run = s.run ∨
      s.seq.phase = .idle ∧ (i = .start ∧ s.armPort = true ∧ t.run = .running ∨ i = .stop ∧ t.run = .stopped) := by
  cases h
  case startArmed hi _ ha => exact .inr ⟨hi, .inl ⟨rfl, ha, rfl⟩⟩
  case stop hi => exact .inr ⟨hi, .inr ⟨rfl, rfl⟩⟩
  all_goals exact .inl rfl

/-- `execs_run` with the words of START and STOP in place of the operations. -/
theorem fires_run {e : Option Event} (h : Fires s e t) :
    t.run = s.run ∨
      s.seq.phase = .idle ∧ ∃ a,
        (e = some (.command a 0x10000000) ∧ s.armPort = true ∧ t.run = .running ∨
          e = some (.command a 0x20000000) ∧ t.run = .stopped) := by
  cases h with
  | arm => exact .inl rfl
  | reserved => exact .inl rfl
  | turn _ _ _ ht => exact .inl (turns_keep ht).1
  | sample _ _ _ hx =>
    rcases execs_run hx with hrun | ⟨-, ⟨hi, -⟩ | ⟨hi, -⟩⟩
    · exact .inl hrun
    · cases hi
    · cases hi
  | command a _ _ _ hd _ hx =>
    rcases execs_run hx with hrun | ⟨hidle, ⟨rfl, ha, hr⟩ | ⟨rfl, hr⟩⟩
    · exact .inl hrun
    · exact .inr ⟨hidle, a, .inl ⟨by rw [decodeCommand_start hd], ha, hr⟩⟩
    · exact .inr ⟨hidle, a, .inr ⟨by rw [decodeCommand_stop hd], hr⟩⟩

/-- The two transitions of RUN, both between commands (44_capture_driver.md R165, R175). -/
theorem step_run (h : step s = .next t) :
    t.run = s.run ∨
      s.seq.phase = .idle ∧
        (comesWord s 0x10000000 ∧ s.armPort = true ∧ t.run = .running ∨ comesWord s 0x20000000 ∧ t.run = .stopped) := by
  rcases fires_run (step_fires h).2 with hrun | ⟨hidle, a, ⟨he, ha, hr⟩ | ⟨he, hr⟩⟩
  · exact .inl hrun
  · exact .inr ⟨hidle, .inl ⟨comesWord_of_head he, ha, hr⟩⟩
  · exact .inr ⟨hidle, .inr ⟨comesWord_of_head he, hr⟩⟩

/-- Settles O39: a step that changes RUN is one of the two transitions of `step_run`, told apart by the RUN it leaves. -/
theorem runChangesOnlyByStartAndStop : Obligations.RunChangesOnlyByStartAndStop := by
  refine ⟨fun _ => rfl, fun s t h => ?_⟩
  rcases step_run h with hrun | ⟨-, ⟨hw, ha, hr⟩ | ⟨hw, hr⟩⟩
  · exact ⟨fun hs ht => by simp [hrun, hs] at ht, fun hs ht => by simp [hrun, hs] at ht⟩
  · exact ⟨fun _ _ => ⟨hw, ha⟩, fun _ hs => by simp [hr] at hs⟩
  · exact ⟨fun _ hs => by simp [hr] at hs, fun _ _ => hw⟩

/-! ### IS_RUNNING -/

theorem execIsRunning_of_idle (hi : s.seq.phase = .idle) :
    execIsRunning s = .next (respond .ok (if s.run = .running then 1 else 0) s) := by
  rw [execIsRunning, whenIdle_of_idle hi]
  cases s.run <;> rfl

/-- Settles O11: the response is the whole effect, and its word shows the value. -/
theorem isRunningReportsRun : Obligations.IsRunningReportsRun := by
  refine ⟨by decide, fun s hi => ?_⟩
  have hword : responseWord .ok (if s.run = .running then 1 else 0) = if s.run = .running then 0x00000001 else 0x00000000 := by
    split <;> decide
  rw [exec, execIsRunning_of_idle hi, respond, hword]
  rfl

/-! ### PROCESS while Stopped -/

theorem execProcess_of_stopped (hi : s.seq.phase = .idle) (hr : s.run = .stopped) :
    execProcess s = .next (s.goto .respond) := by
  rw [execProcess, whenIdle_of_idle hi, hr]

/-- Going to the position SEQ already has changes nothing. -/
theorem goto_phase (s : State) : s.goto s.seq.phase = s := rfl

/-- The response step undoes the one move of SEQ that PROCESS made while Stopped. -/
theorem processStep_goto_respond (hi : s.seq.phase = .idle) : processStep (s.goto .respond) = .next (respond .ok 0 s) :=
  calc processStep (s.goto .respond)
      = .next (respond .ok 0 (s.goto .idle)) := rfl
    _ = .next (respond .ok 0 s) := by rw [← hi, goto_phase]

/-- Settles O22: the two steps are the move to the response and the response, and RUN changes only between commands. -/
theorem processWhileStoppedOnlyAnswers : Obligations.ProcessWhileStoppedOnlyAnswers :=
  ⟨fun _ hi hr => ⟨execProcess_of_stopped hi hr, processStep_goto_respond hi⟩,
    fun _ _ hbusy h => (step_run h).resolve_right fun ⟨hidle, _⟩ => hbusy hidle⟩

end Sys2Proof.Machine
end

section
/-!
PROOFS. The trigger configuration's getters: GET_TRIGGER_LEVEL and GET_TRIGGER_EDGE (45_trigger_config.md R192, R193). Each
answers a value that fits the response word's value field and touches nothing else.
-/

namespace Sys2Proof

theorem Edge.code_toNat_lt (e : Edge) : e.code.toNat < 2 ^ 16 :=
  e.code.isLt.trans (by decide)

theorem Params.valid.resetLevel_le {p : Params} (h : p.valid) : p.resetLevel ≤ p.maxSample := by
  obtain ⟨-, -, -, -, hlevel⟩ := h
  exact hlevel

namespace Machine

variable {s : State}

/-- An OK response whose value fits the value field (30_encoding.md R85), as an output of the whole number. -/
theorem respond_ok {v : Nat} (h : v < 2 ^ 16) (s : State) :
    respond .ok v s = { s with out := s.out ++ [.response (BitVec.ofNat 32 v)] } := by
  rw [respond, responseWord_ok h]
  rfl

/-- A level in range fits the value field, as a sample has at most 15 bits (00_scope.md R7). -/
theorem exec_getTriggerLevel (hp : s.params.valid) (hlevel : s.trigLevel ≤ s.params.maxSample)
    (hi : s.seq.phase = .idle) :
    exec .getTriggerLevel s = .next { s with out := s.out ++ [.response (BitVec.ofNat 32 s.trigLevel)] } := by
  have hmax := hp.maxSample_lt
  rw [exec, execGetTriggerLevel, whenIdle_of_idle hi, respond_ok (by omega)]

theorem exec_getTriggerEdge (hi : s.seq.phase = .idle) :
    exec .getTriggerEdge s = .next { s with out := s.out ++ [.response (BitVec.ofNat 32 s.trigEdge.code.toNat)] } := by
  rw [exec, execGetTriggerEdge, whenIdle_of_idle hi, respond_ok s.trigEdge.code_toNat_lt]

/-- Settles O13: the reset state is an idle state whose level is RESET_LEVEL, in range in every legal parameter set. -/
theorem getTriggerLevelReadsStoredLevel : Obligations.GetTriggerLevelReadsStoredLevel :=
  ⟨by decide, fun _ hp hlevel hi => exec_getTriggerLevel hp hlevel hi,
    fun p hp => exec_getTriggerLevel (s := State.resetWith p) hp hp.resetLevel_le rfl⟩

/-- Settles O14: one equation for all three edges, read at each edge's code and at the reset state. -/
theorem getTriggerEdgeReadsStoredEdge : Obligations.GetTriggerEdgeReadsStoredEdge := by
  refine ⟨by decide, fun p _ => exec_getTriggerEdge (s := State.resetWith p) rfl, fun s hi => ?_⟩
  rw [exec_getTriggerEdge hi]
  refine ⟨fun he => ?_, fun he => ?_, fun he => ?_⟩ <;> rw [he] <;> rfl

end Machine

end Sys2Proof
end

section
/-!
PROOFS. The encoding (30_encoding.md): the decoder on encoded words and the encoder on decoded ones (R81 to R84, R87), and which
command words are reserved (R86).
-/

namespace Sys2Proof

/-! ### Encoded words -/

/-- A word whose zero field is zero is read by its opcode (30_encoding.md R86). -/
theorem decodeCommand_commandWord (op : BitVec 4) (e : BitVec 2) (l : BitVec 16) :
    decodeCommand (commandWord op e l) = decodeOpcode (commandWord op e l) :=
  if_pos (zeroField_commandWord op e l)

theorem decodeCommand_setTrigger_word (edge : Edge) (level : BitVec 16) :
    decodeCommand (commandWord 5 edge.code level) = .instr (.setTrigger (sext16 level) edge) := by
  rw [decodeCommand_commandWord]
  simp [decodeOpcode, decodeSetTrigger]

/-- Edge code 3 is reserved (30_encoding.md R83). -/
theorem decodeCommand_edge_three (level : BitVec 16) : decodeCommand (commandWord 5 3 level) = .reserved .edgeCode := by
  rw [decodeCommand_commandWord]
  simp [decodeOpcode, decodeSetTrigger, Edge.ofCode]

theorem decodeSample_ofNat {n v : Nat} (hn : n ≤ 15) (hv : v < 2 ^ n) :
    decodeSample n (BitVec.ofNat 16 v) = .instr (.pSample v) := by
  have hpow : 2 ^ n ≤ 2 ^ 15 := Nat.pow_le_pow_right (by decide) hn
  have hval : (BitVec.ofNat 16 v).toNat = v := by rw [BitVec.toNat_ofNat, Nat.mod_eq_of_lt (by omega)]
  exact decodeSample_eq_instr.2 ⟨by rw [hval], by rwa [hval]⟩

/-- Settles O2: the seven command words by their fields, the sample word by its value. -/
theorem decodeOfEncodeIsIdentity : Obligations.DecodeOfEncodeIsIdentity := by
  intro n i hn hwf
  cases i with
  | setTrigger level edge =>
    exact (decodeCommand_setTrigger_word edge _).trans (by rw [sext16_ofInt hwf])
  | pSample v => exact decodeSample_ofNat hn hwf
  | _ => rfl

/-- Settles O1: each word of the examples is evaluated. -/
theorem encodingExamplesDecode : Obligations.EncodingExamplesDecode := by
  refine ⟨?_, ?_, ?_⟩ <;> decide

/-! ### Decoded words -/

/-- A command word that is read as an operation is the word of that operation. -/
theorem encode_of_decodeCommand {n : Nat} {w : Word} {i : Instr} (h : decodeCommand w = .instr i) :
    i.WellFormed n ∧ encode i = .command w := by
  obtain ⟨hzero, hop⟩ := decodeCommand_eq_instr h
  rw [← commandWord_fields hzero]
  rcases decodeOpcode_eq_instr hop with ⟨ho, e, rfl, he⟩ | ⟨⟨he, hl⟩, hplain⟩
  · rw [ho, he]
    exact ⟨sext16_range _, by rw [encode, ofInt_sext16]⟩
  · rw [he, hl]
    rcases hplain with ⟨ho, rfl⟩ | ⟨ho, rfl⟩ | ⟨ho, rfl⟩ | ⟨ho, rfl⟩ | ⟨ho, rfl⟩ | ⟨ho, rfl⟩ <;>
      exact ⟨trivial, by rw [ho]; rfl⟩

/-- Settles O3: port by port, the word is rebuilt from its fields. -/
theorem encodeOfDecodeIsIdentity : Obligations.EncodeOfDecodeIsIdentity := by
  intro n w i h
  cases w with
  | command w => exact encode_of_decodeCommand h
  | sample w =>
    obtain ⟨rfl, hw⟩ := decodeSample_eq_instr.1 h
    exact ⟨hw, by simp [encode]⟩

/-! ### Reserved words -/

/-- The operand fields of a word together are `cmd[17:0]` (30_encoding.md R81). -/
theorem operandFields_eq_zero {w : Word} : (edgeField w = 0 ∧ levelField w = 0) ↔ w.toNat % 2 ^ 18 = 0 := by
  rw [← BitVec.toNat_inj, ← BitVec.toNat_inj, toNat_edgeField, toNat_levelField]
  simp only [BitVec.ofNat_eq_ofNat, BitVec.toNat_zero]
  omega

theorem decodePlain_reserved {i : Instr} {w : Word} :
    (∃ r, decodePlain i w = .reserved r) ↔ w.toNat % 2 ^ 18 ≠ 0 := by
  unfold decodePlain
  rw [ne_eq, ← operandFields_eq_zero]
  split
  case isTrue hz => simp [hz]
  case isFalse hz => exact ⟨fun _ => hz, fun _ => ⟨_, rfl⟩⟩

theorem Edge.ofCode_eq_none {c : BitVec 2} : Edge.ofCode c = none ↔ c.toNat = 3 := by
  revert c; decide

theorem decodeSetTrigger_reserved {w : Word} :
    (∃ r, decodeSetTrigger w = .reserved r) ↔ w.toNat / 2 ^ 16 % 2 ^ 2 = 3 := by
  rw [show w.toNat / 2 ^ 16 % 2 ^ 2 = (edgeField w).toNat from (toNat_edgeField w).symm, ← Edge.ofCode_eq_none]
  unfold decodeSetTrigger
  split <;> simp [*]

/-- The reserved words among those whose zero field is zero, opcode by opcode (30_encoding.md R82, R86). -/
theorem decodeOpcode_reserved {w : Word} :
    (∃ r, decodeOpcode w = .reserved r) ↔
      w.toNat / 2 ^ 28 = 0 ∨ 8 ≤ w.toNat / 2 ^ 28 ∨ (w.toNat / 2 ^ 28 ≠ 5 ∧ w.toNat % 2 ^ 18 ≠ 0) ∨
        (w.toNat / 2 ^ 28 = 5 ∧ w.toNat / 2 ^ 16 % 2 ^ 2 = 3) := by
  unfold decodeOpcode
  rw [← toNat_opcodeField]
  split
  case h_5 ho => rw [decodeSetTrigger_reserved, ho]; simp
  case h_8 =>
    have : (opcodeField w).toNat < 16 := (opcodeField w).isLt
    simp only [imp_false, Decoded.reserved.injEq, exists_eq', true_iff] at *
    omega
  all_goals
    rename_i ho
    rw [decodePlain_reserved, ho]
    simp

theorem decodeCommand_reserved {w : Word} : Machine.ReservedWord w ↔ ∃ r, decodeCommand w = .reserved r := by
  unfold decodeCommand
  split
  case isTrue hz =>
    rw [decodeOpcode_reserved, Machine.ReservedWord, zeroField_eq_zero.1 hz]
    simp
  case isFalse hz => exact ⟨fun _ => ⟨_, rfl⟩, fun _ => .inr (.inr (.inl (mt zeroField_eq_zero.2 hz)))⟩

end Sys2Proof
end

section
/-!
PROOFS. The ports: what `step` does with the next event of the schedule (30_encoding.md R80, R86, R87), the serial commands
(44_capture_driver.md R179), the parameter check (00_scope.md R7) and SET_TRIGGER (45_trigger_config.md R190, R191).
-/

namespace Sys2Proof.Machine

variable {s : State} {rest : List Event} {a : Agent} {w : Word}

/-! ### The next event -/

theorem step_cons {e : Event} (hv : s.params.valid) (hib : s.inbox = e :: rest) :
    step s = deliver e { s with inbox := rest } := by
  rw [step_of_valid hv, runTurn, hib]

theorem step_nil (hv : s.params.valid) (hib : s.inbox = []) : step s = processStep s := by
  rw [step_of_valid hv, runTurn, hib]

/-- A command word is taken from the controller at any time, from the consumer between commands (44_capture_driver.md R179). -/
theorem step_command (hv : s.params.valid) (hib : s.inbox = .command a w :: rest)
    (ha : a = .consumer → s.seq.phase = .idle) : step s = takeCommand w { s with inbox := rest } := by
  rw [step_cons hv hib]
  cases a with
  | consumer => exact whenIdle_of_idle (ha rfl) _
  | controller => rfl

/-- The three responses with value 0, as outputs (30_encoding.md R85). -/
theorem respond_ok_zero (s : State) : respond .ok 0 s = { s with out := s.out ++ [.response 0x00000000] } := by
  rw [respond, responseWord_ok_zero]
  rfl

theorem respond_errHardware_zero (s : State) :
    respond .errHardware 0 s = { s with out := s.out ++ [.response 0x10000000] } := by
  rw [respond, responseWord_errHardware_zero]
  rfl

theorem respond_errIllegal_zero (s : State) :
    respond .errIllegal 0 s = { s with out := s.out ++ [.response 0x20000000] } := by
  rw [respond, responseWord_errIllegal_zero]
  rfl

theorem takeCommand_instr {i : Instr} (hd : decodeCommand w = .instr i) : takeCommand w s = exec i s := by
  simp only [takeCommand, decode, hd]

theorem takeCommand_reserved {r : Reserved} (hd : decodeCommand w = .reserved r) :
    takeCommand w s = .next { s with out := s.out ++ [.response 0x20000000] } := by
  simp only [takeCommand, decode, hd, reportError, respond_errIllegal_zero]

theorem takeSample_instr {w : SampleWord} {i : Instr} (hd : decodeSample s.params.adcBits w = .instr i) :
    takeSample w s = exec i s := by
  simp only [takeSample, decode, hd]

/-- A reserved word that is the next event is answered ERR_ILLEGAL (30_encoding.md R86). -/
theorem step_reserved {r : Reserved} (hv : s.params.valid) (hib : s.inbox = .command a w :: rest)
    (ha : a = .consumer → s.seq.phase = .idle) (hd : decodeCommand w = .reserved r) :
    step s = .next { s with inbox := rest, out := s.out ++ [.response 0x20000000] } := by
  rw [step_command hv hib ha, takeCommand_reserved hd]

/-- Settles O4: the decoder's reserved words are those of R86, and the step of one is `step_reserved`. -/
theorem reservedWordIsAnsweredIllegal : Obligations.ReservedWordIsAnsweredIllegal := by
  refine ⟨fun w => decodeCommand_reserved, fun s a w rest hv hib ha hw => ?_⟩
  obtain ⟨r, hd⟩ := decodeCommand_reserved.1 hw
  exact step_reserved hv hib ha hd

/-- A word placed from outside is delivered by the very next step. -/
theorem step_withFetchWord {nbits n : Nat} {i : Instr} (hv : s.params.valid) (hi : s.seq.phase = .idle)
    (hd : decode s.params.adcBits (portWordOf nbits n) = .instr i) : step (s.withFetchWord nbits n) = exec i s := by
  cases hp : portWordOf nbits n with
  | command c =>
    have hib : (s.withFetchWord nbits n).inbox = .command .consumer c :: s.inbox := by simp only [State.withFetchWord, hp]
    rw [hp] at hd
    exact (step_command (s := s.withFetchWord nbits n) hv hib fun _ => hi).trans (takeCommand_instr hd)
  | sample v =>
    have hib : (s.withFetchWord nbits n).inbox = .sample v :: s.inbox := by simp only [State.withFetchWord, hp]
    rw [hp] at hd
    exact (step_cons (s := s.withFetchWord nbits n) hv hib).trans (takeSample_instr (s := s) hd)

/-- Settles O5: each clause is the delivery of one kind of event. -/
theorem stepRunsTheDeliveredWord : Obligations.StepRunsTheDeliveredWord := by
  intro s rest hv
  refine ⟨fun w i hib hi hd => ?_, fun w i hib hd => ?_, fun w i hib hd => ?_, fun b hib => step_cons hv hib,
    fun hib => step_cons hv hib, step_nil hv, fun nbits w i hi hd => step_withFetchWord hv hi hd⟩
  · exact (step_command hv hib fun _ => hi).trans (takeCommand_instr hd)
  · exact (step_command hv hib nofun).trans (takeCommand_instr hd)
  · exact (step_cons hv hib).trans (takeSample_instr hd)

/-! ### Commands during a PROCESS -/

/-- Settles O6: everything but SET_TRIGGER asks whether a PROCESS is in progress. -/
theorem commandsAreSerial : Obligations.CommandsAreSerial := by
  intro s rest w hv hbusy
  refine ⟨fun hib => ?_, fun i hi => ?_, fun level edge hib hd => ?_⟩
  · rw [step_cons hv hib]
    exact whenIdle_of_busy hbusy _
  · rcases hi with rfl | rfl | rfl | rfl | rfl | rfl <;> exact whenIdle_of_busy hbusy _
  · rw [step_command hv hib nofun, takeCommand_instr hd]
    exact ⟨_, rfl, rfl, by rw [respond_ok_zero]; rfl⟩

/-! ### The parameters -/

/-- Settles O7: the check of construction and of `step` is the conjunction of R6 and R7. -/
theorem invalidParametersAreRefused : Obligations.InvalidParametersAreRefused := by
  intro p
  rw [← Params.valid_iff]
  refine ⟨fun hv => if_pos hv, fun hv => ⟨if_neg hv, fun s hs => if_neg ?_⟩⟩
  rwa [hs]

/-! ### SET_TRIGGER -/

/-- Settles O12: the words by the decoder's lemmas, the effect by the clamp as a case distinction. -/
theorem setTriggerStoresClampedPair : Obligations.SetTriggerStoresClampedPair := by
  refine ⟨decodeCommand_setTrigger_word, fun s level edge => ?_, fun s a level rest hv hib ha => ?_⟩
  · rw [← clampLevel_eq, exec, execSetTrigger, respond_ok_zero]
    rfl
  · exact step_reserved hv hib ha (decodeCommand_edge_three level)

end Sys2Proof.Machine
end

section
/-!
PROOFS. The lifecycle: the reset state (10_state.md R34), START (44_capture_driver.md R166) and STOP (R167).
-/

namespace Sys2Proof.Machine

variable {s : State}

/-! ### Reset -/

theorem powerOnCell_le (s : State) (k : Nat) : s.powerOnCell k ≤ s.params.maxSample :=
  Nat.le_of_lt_succ (Nat.mod_lt _ (Nat.succ_pos _))

/-- Settles O8: nothing is written at reset, so every cell holds its power-on value. -/
theorem resetState : Obligations.ResetState := fun p _ =>
  ⟨rfl, rfl, rfl, rfl, rfl, rfl, rfl, rfl, rfl, fun k _ => powerOnCell_le (State.resetWith p) k⟩

/-! ### START -/

theorem execStart_of_running (hi : s.seq.phase = .idle) (hr : s.run = .running) :
    execStart s = .next (respond .ok 0 s) := by
  rw [execStart, whenIdle_of_idle hi, hr]

theorem execStart_of_stopped (hi : s.seq.phase = .idle) (hr : s.run = .stopped) :
    execStart s = if s.armPort then .next (respond .ok 0 s.armed) else .next (respond .errHardware 0 s) := by
  rw [execStart, whenIdle_of_idle hi, hr]
  rfl

theorem execStart_armed (hi : s.seq.phase = .idle) (hr : s.run = .stopped) (ha : s.armPort = true) :
    execStart s = .next (respond .ok 0 s.armed) := by
  rw [execStart_of_stopped hi hr, if_pos ha]

/-- Settles O9: `execStart` by the run state and the arm port, with the response word written out. -/
theorem startArmsOrReports : Obligations.StartArmsOrReports := by
  refine ⟨by decide, fun s hi => ⟨fun hr => ?_, fun hr ha => ?_, fun hr ha => ?_⟩⟩
  · rw [exec, execStart_of_running hi hr, respond_ok_zero]
  · rw [exec, execStart_of_stopped hi hr, if_neg (ne_true_of_eq_false ha), respond_errHardware_zero]
  · rw [exec, execStart_armed hi hr ha, respond_ok_zero]
    rfl

/-! ### STOP -/

/-- Settles O10: between commands STOP is the write of RUN and the response. -/
theorem stopHaltsAndKeepsTheRest : Obligations.StopHaltsAndKeepsTheRest := by
  refine ⟨by decide, fun s hi => ?_⟩
  rw [exec, execStop, whenIdle_of_idle hi, respond_ok_zero]

end Sys2Proof.Machine
end

section
/-!
PROOFS. The byte memory (20_memory.md R53, R55) and the producer step P_SAMPLE (40_sample_source.md R101 to R103).
-/

namespace Sys2Proof.Machine

/-! ### Bytes of a cell -/

namespace Memory

variable (m : Memory) (k v : Nat)

theorem read_writeCell_low : (m.writeCell k v).read (2 * k) = some (BitVec.ofNat 8 v) :=
  (read_write_other _ _ (by simp only [highByte]; omega)).trans (read_write_same m (lowByte k) _)

theorem read_writeCell_high : (m.writeCell k v).read (2 * k + 1) = some (BitVec.ofNat 8 (v / 256)) :=
  read_write_same _ (highByte k) _

theorem read_writeCell_other {a : Nat} (hlo : a ≠ 2 * k) (hhi : a ≠ 2 * k + 1) : (m.writeCell k v).read a = m.read a :=
  (read_write_other _ _ hhi).trans (read_write_other m _ hlo)

end Memory

/-- Settles O52: bytes by the write's own lemmas, cells by those of their two bytes. -/
theorem memoryReadsBackWhatWasWritten : Obligations.MemoryReadsBackWhatWasWritten :=
  ⟨fun m a v hm => ⟨Memory.write_wf a v hm, Memory.read_write_same m a v, fun _ => Memory.read_write_other m v⟩,
    fun m k v hm hv => ⟨Memory.writeCell_wf k v hm, Memory.readCell_writeCell_same m k hv, fun _ =>
      Memory.readCell_writeCell_other m v⟩⟩

variable {s t : State} {v : Nat}

/-- The two bytes of a 16-bit value make it up again. -/
theorem lowByte_add_highByte (hv : v < 65536) :
    (BitVec.ofNat 8 v).toNat + 256 * (BitVec.ofNat 8 (v / 256)).toNat = v := by
  simp only [BitVec.toNat_ofNat]
  omega

/-- A sample of a legal width fits the halfword of a cell. -/
theorem sample_lt {p : Params} (hp : p.valid) (hv : v ≤ p.maxSample) : v < 65536 := by
  have := hp.maxSample_lt
  omega

/-! ### What a sample leaves -/

/-- The cell a sample is written to (20_memory.md R53). -/
theorem cell_stored_same (s : State) (hv : v < 65536) : (s.stored v).cell s.wptr = v :=
  (cell_stored s v _).trans (cell_store_same s _ hv)

theorem cell_stored_other (s : State) (v : Nat) {k : Nat} (hk : k ≠ s.wptr) : (s.stored v).cell k = s.cell k :=
  (cell_stored s v _).trans (cell_store_other s v hk)

/-- The one state P_SAMPLE can leave while Running. -/
theorem exec_pSample_eq_stored (hr : s.run = .running) (h : exec (.pSample v) s = .next t) :
    s.wptr < s.params.L ∧ t = s.stored v := by
  cases exec_execs h with
  | dropped _ hs => rw [hr] at hs; cases hs
  | sample _ _ hlt => exact ⟨hlt, rfl⟩

/-- While Stopped a sample is dropped (40_sample_source.md R102). -/
theorem exec_pSample_stopped (hr : s.run = .stopped) : exec (.pSample v) s = .next s := by
  rw [exec, execPSample, hr]

/-- The flag rule of 40_sample_source.md R101 in terms of the cell written: the flag of a half is set after its last cell. -/
theorem flag_stored (hp : s.params.valid) (hlt : s.wptr < s.params.L) (v : Nat) (h : Half) :
    (s.stored v).flag h = (s.flag h || decide (s.wptr + 1 = halfBase s.params h + s.params.half)) := by
  have hL := hp.two_half
  cases h with
  | h0 =>
    exact congrArg (s.halfFlag || ·) (decide_eq_decide.2 (by rw [nextIndex_eq_half hp hlt, halfBase, Nat.zero_add]))
  | h1 =>
    exact congrArg (s.fullFlag || ·) (decide_eq_decide.2 (by rw [nextIndex_eq_zero hlt, halfBase, ← hL, Nat.two_mul]))

/-- A sample writes memory and WPTR, and the two flags. -/
theorem stored_eq_putFlag (s : State) (v : Nat) :
    s.stored v =
      (({ s with mem := s.mem.writeCell s.wptr v, wptr := nextIndex s.params s.wptr } : State).putFlag .h0
        ((s.stored v).flag .h0)).putFlag .h1 ((s.stored v).flag .h1) := rfl

/-- Settles O15: the state of `stored` with the wrap and the flag rule as case distinctions. -/
theorem pSampleWritesAdvancesAndFlags : Obligations.PSampleWritesAdvancesAndFlags := by
  intro s v hp hr hlt hv
  refine ⟨s.mem.writeCell s.wptr v, ?_, cell_store_same s _ (sample_lt hp hv), fun k hk => cell_store_other s v hk,
    fun a => Memory.read_writeCell_other _ _ _⟩
  have hhalf : nextIndex s.params s.wptr = s.params.half ↔ s.wptr + 1 = s.params.L / 2 := nextIndex_eq_half hp hlt
  rw [exec_pSample_running hr hlt]
  simp only [State.stored, raiseFlags, hhalf, nextIndex_eq_zero hlt]
  rw [nextIndex_eq hlt]

/-- Settles O16: a dropped sample, and the sample after an arming, which finds WPTR 0. -/
theorem stoppedSampleIsDroppedRestartAtCellZero : Obligations.StoppedSampleIsDroppedRestartAtCellZero := by
  refine ⟨fun _ _ => exec_pSample_stopped, fun s v hp hv hi hr ha => ?_⟩
  refine ⟨_, _, execStart_armed hi hr ha, exec_pSample_running rfl hp.L_pos, ?_, fun k hk => ?_⟩
  · exact cell_stored_same (respond .ok 0 s.armed) (sample_lt hp hv)
  · exact (cell_stored_other (respond .ok 0 s.armed) v hk).trans (cell_congr rfl rfl rfl k)

/-- Settles O17: the two bytes are those of `writeCell`. -/
theorem sampleLiesLittleEndian : Obligations.SampleLiesLittleEndian := by
  intro s t v hp hr hv h
  obtain ⟨-, rfl⟩ := exec_pSample_eq_stored hr h
  have hbytes := lowByte_add_highByte (sample_lt hp hv)
  refine ⟨_, _, Memory.read_writeCell_low _ _ _, Memory.read_writeCell_high _ _ _, hbytes, ?_⟩
  rw [hbytes]
  exact Nat.div_eq_of_lt (Params.lt_pow_iff_le_maxSample.2 hv)

/-! ### Completions -/

/-- What a sample leaves when it completes half `h`: the flag is set whatever it was before (40_sample_source.md R103). -/
theorem stored_of_completes {h : Half} (hp : s.params.valid) (hend : s.wptr + 1 = halfBase s.params h + s.params.half)
    (v : Nat) :
    s.stored v =
      ({ s with mem := s.mem.writeCell s.wptr v, wptr := nextIndex s.params s.wptr } : State).putFlag h true := by
  have hL := hp.two_half
  have hhalf := hp.half_pos
  have hlt : s.wptr < s.params.L := by cases h <;> simp only [halfBase] at hend <;> omega
  rw [stored_eq_putFlag, flag_stored hp hlt, flag_stored hp hlt]
  cases h with
  | h0 => simp [hend, halfBase, Nat.ne_of_gt hhalf]
  | h1 => simp [hend, halfBase, Nat.ne_of_gt hhalf]

/-- What a sample leaves when it completes no half. -/
theorem stored_of_not_completes (hp : s.params.valid) (hlt : s.wptr < s.params.L)
    (hmid : ∀ h, s.wptr + 1 ≠ halfBase s.params h + s.params.half) (v : Nat) :
    s.stored v = { s with mem := s.mem.writeCell s.wptr v, wptr := s.wptr + 1 } := by
  have hL : s.wptr + 1 ≠ s.params.L := by rw [← hp.two_half, Nat.two_mul]; exact hmid .h1
  rw [stored_eq_putFlag, flag_stored hp hlt, flag_stored hp hlt, nextIndex_eq hlt, if_neg hL]
  simp [hmid]

/-- Settles O19: `stored_of_completes` overwrites the flag. -/
theorem lostSignalLeavesNoTrace : Obligations.LostSignalLeavesNoTrace := by
  intro s v h hp hr hlt hend
  have hend' : s.wptr + 1 = halfBase s.params h + s.params.half := by
    have := hp.two_half
    cases h <;> simp only [halfBase] at hend ⊢ <;> omega
  have hstored : ∀ b, exec (.pSample v) (s.putFlag h b) =
      .next (({ s with mem := s.mem.writeCell s.wptr v, wptr := nextIndex s.params s.wptr } : State).putFlag h true) := by
    intro b
    rw [exec_pSample_running (by simpa using hr) (by simpa using hlt),
      stored_of_completes (h := h) (by simpa using hp) (by simpa using hend')]
    cases h <;> rfl
  exact ⟨_, hstored false, hstored true, putFlag_flag_same ..⟩

end Sys2Proof.Machine
end

section
/-!
PROOFS. Fills: a list of samples from WPTR 0 on (40_sample_source.md R106), and the weaker producer of R109 beside the ordered
one of R101.
-/

namespace Sys2Proof.Machine

variable {s t : State} {vs : List Nat} {v : Nat}

/-! ### A fill -/

/-- The flag rule counts completed halves: the next sample completes one exactly when its number reaches it. -/
theorem halfFlag_step (hp : s.params.valid) (n : Nat) :
    (s.params.half ≤ n ∨ (n + 1) % s.params.L = s.params.half) ↔ s.params.half ≤ n + 1 := by
  have hL := hp.two_half
  have hhalf := hp.half_pos
  by_cases hn : s.params.half ≤ n
  · omega
  · rw [Nat.mod_eq_of_lt (by omega)]
    omega

theorem fullFlag_step (hp : s.params.valid) (n : Nat) :
    (s.params.L ≤ n ∨ (n + 1) % s.params.L = 0) ↔ s.params.L ≤ n + 1 := by
  have hL := hp.L_pos
  by_cases hn : n + 1 < s.params.L
  · rw [Nat.mod_eq_of_lt hn]
    omega
  · by_cases hn' : n + 1 = s.params.L
    · rw [hn', Nat.mod_self]
      omega
    · omega

/-- Two samples less than L apart lie in different cells. -/
theorem mod_ne_mod {L j n : Nat} (hlt : j < n) (hle : n < j + L) : j % L ≠ n % L := by
  intro h
  have hdvd : L ∣ n - j := (Nat.modEq_iff_dvd' hlt.le).1 h
  have := Nat.le_of_dvd (by omega) hdvd
  omega

/-- The state `t` is what `s`, with WPTR 0, is after the samples `vs` (40_sample_source.md R106). -/
structure Filled (s : State) (vs : List Nat) (t : State) : Prop where
  registers : t = { s with
    mem := t.mem
    wptr := vs.length % s.params.L
    halfFlag := s.halfFlag || decide (s.params.half ≤ vs.length)
    fullFlag := s.fullFlag || decide (s.params.L ≤ vs.length) }
  latest : ∀ j v, vs[j]? = some v → vs.length ≤ j + s.params.L → t.cell (j % s.params.L) = v
  unreached : ∀ k, vs.length ≤ k → t.cell k = s.cell k

theorem filled_nil (hp : s.params.valid) (hw : s.wptr = 0) : Filled s [] s where
  registers := by
    have hhalf := hp.half_pos
    have hL := hp.L_pos
    rw [List.length_nil, Nat.zero_mod, decide_eq_false (by omega), decide_eq_false (by omega), Bool.or_false, Bool.or_false,
      ← hw]
  latest := nofun
  unreached _ _ := rfl

namespace Filled

theorem params_eq (h : Filled s vs t) : t.params = s.params := by rw [h.registers]

theorem run_eq (h : Filled s vs t) : t.run = s.run := by rw [h.registers]

theorem wptr_eq (h : Filled s vs t) : t.wptr = vs.length % s.params.L := by rw [h.registers]

theorem wptr_lt (hp : s.params.valid) (h : Filled s vs t) : t.wptr < t.params.L := by
  rw [h.wptr_eq, h.params_eq]
  exact Nat.mod_lt _ hp.L_pos

theorem exec_pSample (hp : s.params.valid) (hr : s.run = .running) (h : Filled s vs t) (v : Nat) :
    exec (.pSample v) t = .next (t.stored v) :=
  exec_pSample_running (h.run_eq.trans hr) (h.wptr_lt hp)

/-- The cell index after the one of the sample with number `vs.length + 1` (20_memory.md R58). -/
theorem nextIndex_eq_mod (h : Filled s vs t) : nextIndex t.params t.wptr = (vs.length + 1) % s.params.L := by
  rw [nextIndex, h.wptr_eq, h.params_eq, Nat.mod_add_mod]

/-- One more sample. -/
theorem stored (hp : s.params.valid) (hv : v < 65536) (h : Filled s vs t) : Filled s (vs ++ [v]) (t.stored v) where
  registers := by
    have hhalf := halfFlag_step hp vs.length
    have hfull := fullFlag_step hp vs.length
    rw [State.stored, h.nextIndex_eq_mod]
    simp only [List.length_append, List.length_singleton, ← hhalf, ← hfull, Bool.decide_or, ← Bool.or_assoc]
    rw [h.registers]
    rfl
  latest j u hj hle := by
    have hcell := h.wptr_eq
    simp only [List.length_append, List.length_singleton] at hle
    rcases Nat.lt_trichotomy j vs.length with hlt | rfl | hgt
    · rw [List.getElem?_append_left hlt] at hj
      rw [cell_stored_other t v (hcell ▸ mod_ne_mod hlt (by omega))]
      exact h.latest j u hj (by omega)
    · rw [List.getElem?_concat_length, Option.some.injEq] at hj
      rw [← hcell, cell_stored_same t hv, hj]
    · rw [List.getElem?_eq_none (by simp; omega)] at hj
      cases hj
  unreached k hk := by
    have hcell : t.wptr ≤ vs.length := h.wptr_eq ▸ Nat.mod_le _ _
    simp only [List.length_append, List.length_singleton] at hk
    rw [cell_stored_other t v (by omega)]
    exact h.unreached k (by omega)

/-- Any number of samples more: `feed` extends the fill (40_sample_source.md R106). -/
theorem feed (hp : s.params.valid) (hr : s.run = .running) {us : List Nat} (hus : ∀ v ∈ us, v ≤ s.params.maxSample)
    (h : Filled s vs t) : ∃ u, Machine.feed us t = .next u ∧ Filled s (vs ++ us) u := by
  induction us generalizing vs t with
  | nil => exact ⟨t, rfl, by rwa [List.append_nil]⟩
  | cons v us ih =>
    obtain ⟨hv, hus⟩ := List.forall_mem_cons.1 hus
    obtain ⟨u, hu, hfilled⟩ := ih hus (h.stored hp (sample_lt hp hv))
    refine ⟨u, ?_, by rwa [← List.append_cons] at hfilled⟩
    rw [Machine.feed, h.exec_pSample hp hr v]
    exact hu

end Filled

/-- Settles O18: by induction over the samples, `Filled` holds of the state they leave; the next sample is `stored`. -/
theorem fillFollowsTheContract : Obligations.FillFollowsTheContract := by
  intro s vs hp hr hw hvs
  obtain ⟨t, ht, hfilled⟩ := (filled_nil hp hw).feed hp hr hvs
  rw [List.nil_append] at hfilled
  refine ⟨t, ht, hfilled.registers, hfilled.latest, hfilled.unreached, fun v u hu => ?_⟩
  rw [hfilled.exec_pSample hp hr v] at hu
  cases hu
  rw [State.stored, hfilled.nextIndex_eq_mod]
  simp only [raiseFlags_halfFlag, raiseFlags_fullFlag, hfilled.params_eq, and_self]

/-! ### The weaker producer -/

section

variable {h : Half} {k : Nat}

/-- A half is the HALF cells from its base on (20_memory.md R51). -/
theorem inHalf_iff (hp : s.params.valid) :
    inHalf s.params h k = true ↔ halfBase s.params h ≤ k ∧ k < halfBase s.params h + s.params.half := by
  have hL := hp.two_half
  cases h <;> simp only [inHalf, halfBase, decide_eq_true_eq] <;> omega

theorem exists_inHalf (hk : k < s.params.L) : ∃ h, inHalf s.params h k = true := by
  by_cases hlt : k < s.params.half
  · exact ⟨.h0, decide_eq_true hlt⟩
  · exact ⟨.h1, decide_eq_true ⟨by omega, hk⟩⟩

theorem inHalf_unique {h' : Half} (hk : inHalf s.params h k = true) (hk' : inHalf s.params h' k = true) : h' = h := by
  match h, h' with
  | .h0, .h0 | .h1, .h1 => rfl
  | .h0, .h1 | .h1, .h0 =>
    simp only [inHalf, decide_eq_true_eq] at hk hk'
    omega

end

/-- The weaker producer's block is the block up to WPTR. -/
theorem Follows.block_eq {w : WeakState} (h : Follows s w) : ∃ x, w.block = { s with wptr := x } :=
  ⟨w.block.wptr, by rw [← h.1]⟩

section

variable {x : Nat} {sh sf : List Nat} {h : Half}

theorem pWrite_of_block (hr : s.run = .running) (hlt : s.wptr < s.params.L) (hv : v ≤ s.params.maxSample) :
    pWrite s.wptr v ⟨{ s with wptr := x }, sh, sf⟩ =
      some ⟨{ s with mem := s.mem.writeCell s.wptr v, wptr := x }, s.wptr :: sh, s.wptr :: sf⟩ := by
  simp [pWrite, bufWrite, hr, hlt, hv]

/-- After the write at WPTR the cells of its half up to WPTR have been written since. -/
theorem Follows.mem_since_write {b c : State} {k : Nat} (hf : Follows s ⟨b, sh, sf⟩)
    (hw : inHalf s.params h s.wptr = true) (hk : inHalf s.params h k = true) (hle : k ≤ s.wptr) :
    k ∈ (WeakState.mk c (s.wptr :: sh) (s.wptr :: sf)).since h := by
  rcases Nat.eq_or_lt_of_le hle with rfl | hlt
  · cases h <;> exact List.mem_cons_self
  · have hmem := hf.2 h k hw hk hlt
    cases h <;> exact List.mem_cons_of_mem _ hmem

/-- A write that completes no half is followed by the write alone. -/
theorem Follows.write (hp : s.params.valid) (hlt : s.wptr < s.params.L)
    (hmid : ∀ h, s.wptr + 1 ≠ halfBase s.params h + s.params.half) (hf : Follows s ⟨{ s with wptr := x }, sh, sf⟩) :
    Follows (s.stored v)
      ⟨{ s with mem := s.mem.writeCell s.wptr v, wptr := x }, s.wptr :: sh, s.wptr :: sf⟩ := by
  rw [stored_of_not_completes hp hlt hmid]
  refine ⟨rfl, fun h k hw hk hle => hf.mem_since_write ?_ hk (Nat.le_of_lt_succ hle)⟩
  obtain ⟨h', hw'⟩ := exists_inHalf hlt
  have hnext : inHalf s.params h' (s.wptr + 1) = true := by
    have := hmid h'
    rw [inHalf_iff hp] at hw' ⊢
    omega
  rwa [inHalf_unique hnext hw]

/-- A half is all written once the cell WPTR is its last one. -/
theorem Follows.allWritten_of_completes {b c : State} (hp : s.params.valid) (hc : c.params = s.params)
    (hend : s.wptr + 1 = halfBase s.params h + s.params.half) (hf : Follows s ⟨b, sh, sf⟩) :
    allWritten h ⟨c, s.wptr :: sh, s.wptr :: sf⟩ = true := by
  have hhalf := hp.half_pos
  have hw : inHalf s.params h s.wptr = true := (inHalf_iff hp).2 (by omega)
  simp only [allWritten, hc, List.all_eq_true, Bool.or_eq_true, Bool.not_eq_true', List.contains_iff_mem]
  intro k _
  by_cases hk : inHalf s.params h k = true
  · have := (inHalf_iff hp).1 hk
    exact .inr (hf.mem_since_write hw hk (by omega))
  · exact .inl (Bool.eq_false_of_not_eq_true hk)

/-- After a completion WPTR stands at the base of the half that contains it: nothing of that half lies before it. -/
theorem inHalf_nextIndex_le {h' : Half} {k : Nat} (hp : s.params.valid)
    (hend : s.wptr + 1 = halfBase s.params h + s.params.half)
    (hw : inHalf s.params h' (nextIndex s.params s.wptr) = true) (hk : inHalf s.params h' k = true) :
    nextIndex s.params s.wptr ≤ k := by
  have hL := hp.two_half
  have hhalf := hp.half_pos
  rw [nextIndex, hend] at hw ⊢
  rw [inHalf_iff hp] at hw hk
  cases h with
  | h1 => simp [halfBase, ← hL, Nat.two_mul]
  | h0 =>
    rw [halfBase, Nat.zero_add, Nat.mod_eq_of_lt (by omega)] at hw ⊢
    cases h' <;> simp only [halfBase] at hw hk <;> omega

/-- A write that completes half `h` is followed by the write and the raise of `h`. -/
theorem Follows.write_raise (hp : s.params.valid) (hr : s.run = .running)
    (hend : s.wptr + 1 = halfBase s.params h + s.params.half) (hf : Follows s ⟨{ s with wptr := x }, sh, sf⟩) :
    ∃ w, pRaise h ⟨{ s with mem := s.mem.writeCell s.wptr v, wptr := x }, s.wptr :: sh, s.wptr :: sf⟩ = some w ∧
      Follows (s.stored v) w := by
  have hall := hf.allWritten_of_completes (c := { s with mem := s.mem.writeCell s.wptr v, wptr := x }) hp rfl hend
  rw [stored_of_completes hp hend]
  unfold pRaise
  rw [if_pos ⟨hr, hall⟩]
  cases h <;>
    exact ⟨_, rfl, rfl, fun h' k hw hk hlt => absurd hlt (Nat.not_lt.2 (inHalf_nextIndex_le hp hend hw hk))⟩

end

/-- After an arming the lists are empty, as nothing lies before WPTR. -/
theorem follows_atStart (hw : s.wptr = 0) : Follows s (WeakState.atStart s) :=
  ⟨rfl, fun _ k _ _ hk => absurd hk (by rw [hw]; exact Nat.not_lt_zero k)⟩

/-- Settles O20: a sample is a write alone, or a write and the raise of the half it completes. -/
theorem weakerProducerFollows : Obligations.WeakerProducerFollows := by
  refine ⟨fun s t _ hi hr h ht => ?_, fun s t w v hp hr hlt hv hf h => ?_⟩
  · cases exec_execs h with
    | startRunning _ hrun => rw [hr] at hrun; cases hrun
    | startArmed => exact follows_atStart rfl
    | startFailed => rw [respond_run, hr] at ht; cases ht
  · obtain ⟨-, rfl⟩ := exec_pSample_eq_stored hr h
    obtain ⟨b, sh, sf⟩ := w
    obtain ⟨x, rfl⟩ : ∃ x, b = { s with wptr := x } := hf.block_eq
    refine ⟨_, pWrite_of_block hr hlt hv, ?_⟩
    by_cases hend : ∃ h, s.wptr + 1 = halfBase s.params h + s.params.half
    · obtain ⟨h, hend⟩ := hend
      exact .inr ⟨h, hf.write_raise hp hr hend⟩
    · exact .inl (hf.write hp hlt (not_exists.1 hend))

end Sys2Proof.Machine
end

section
/-!
PROOFS. The atomic steps of PROCESS, one equation per position of SEQ (44_capture_driver.md R169 to R172, 41_trigger_search.md
R121, 42_window_mapper.md R135), and what they leave alone (10_state.md R36).
-/

namespace Sys2Proof.Machine

variable {s : State} {h : Half}

/-! ### The read of RUN -/

theorem execProcess_of_running (hi : s.seq.phase = .idle) (hr : s.run = .running) :
    execProcess s = .next (s.goto (.test .h0)) := by
  rw [execProcess, whenIdle_of_idle hi, hr]

/-- Settles O21: the word is evaluated, the step is the read of RUN. -/
theorem processReadsRunFirst : Obligations.ProcessReadsRunFirst :=
  ⟨by decide, fun _ hi hr => execProcess_of_running hi hr⟩

/-! ### The flag test -/

/-- Writing the value a flag has changes nothing. -/
theorem putFlag_self (s : State) (h : Half) : s.putFlag h (s.flag h) = s := by cases h <;> rfl

theorem stepTest_set (hf : s.flag h = true) : stepTest h s = .next ((s.putFlag h false).goto (.snap h)) := by
  rw [stepTest, testAndClear, hf]

theorem stepTest_clear (hf : s.flag h = false) : stepTest h s = .next (s.goto (afterHalf h)) := by
  have hself : s.putFlag h false = s := hf ▸ putFlag_self s h
  rw [stepTest, testAndClear, hf, hself]

/-- Settles O23: `stepTest` by half and flag. -/
theorem flagIsTestedAndClearedInOneStep : Obligations.FlagIsTestedAndClearedInOneStep := fun _ =>
  ⟨fun hph hf => (processStep_test hph).trans (stepTest_set hf),
    fun hph hf => (processStep_test hph).trans (stepTest_clear hf),
    fun hph hf => (processStep_test hph).trans (stepTest_set hf),
    fun hph hf => (processStep_test hph).trans (stepTest_clear hf)⟩

/-! ### The scan -/

theorem enterPair_next {i : Nat} (hi : i + 1 < s.params.half ∧ s.seq.edg ≠ .disabled) :
    enterPair h i s = s.putSeq { s.seq with phase := .search h, i := i, prev := none } := if_pos hi

theorem enterPair_done {i : Nat} (hi : ¬ (i + 1 < s.params.half ∧ s.seq.edg ≠ .disabled)) :
    enterPair h i s = s.putSeq { s.seq with phase := .commit h, prev := none, res := none } := if_neg hi

/-- The state with the trigger configuration taken into SEQ (10_state.md R30). -/
abbrev State.snapped (s : State) : State := s.putSeq { s.seq with lvl := s.trigLevel, edg := s.trigEdge }

theorem processStep_snap_eq (hph : s.seq.phase = .snap h) : processStep s = .next (enterPair h (s.cursor h) s.snapped) :=
  processStep_snap hph

/-- Settles O24: the snapshot's step is `enterPair` at the cursor, with the pair just read. -/
theorem snapshotStartsTheScanAtTheCursor : Obligations.SnapshotStartsTheScanAtTheCursor := by
  intro s h hph
  rw [processStep_snap_eq hph]
  exact ⟨fun hi he => congrArg _ (enterPair_next (s := s.snapped) ⟨hi, he⟩),
    fun hi => congrArg _ (enterPair_done (s := s.snapped) hi)⟩

/-- Settles O25: the two reads name cells of the half; a compared pair ends in `enterMap` or `enterPair`. -/
theorem scanReadsPairsAfresh : Obligations.ScanReadsPairsAfresh := by
  intro s h hp hph hi he
  rw [processStep_search hph]
  refine ⟨fun hprev => stepSearch_first hprev (halfBase_add_lt hp h (by omega)), fun v hprev => ?_⟩
  rw [stepSearch_second hprev (halfBase_add_lt hp h hi), ← crosses_iff]
  refine ⟨fun hc => if_pos hc, fun hc hlt => ?_, fun hc hge => ?_⟩
  · rw [if_neg hc, enterPair_next ⟨hlt, he⟩, ← hph]
    rfl
  · rw [if_neg hc, enterPair_done fun hlt => absurd hlt.1 (by omega)]
    rfl

/-! ### The mapping -/

/-- Settles O26: the cell is the one of `windowIndex`, the value that of `yOf`. -/
theorem columnIsReadScaledAndStored : Obligations.ColumnIsReadScaledAndStored := by
  intro s h hp hph _
  rw [processStep_map hph, stepMap_read hp]
  refine ⟨windowIndex s.params s.seq.T s.seq.col, yOf s.params (s.cell (windowIndex s.params s.seq.T s.seq.col)),
    windowIndexAt_cast hp.L_pos _ _ _, yOf_eq hp _, fun hcol => ?_, fun hcol => ?_⟩
  · rw [if_pos hcol]
  · rw [if_neg (by omega)]

/-! ### Emit, cursor write and response -/

/-- The cursor write, by the result it writes (44_capture_driver.md R171, R172). -/
theorem processStep_commit_of_res {res : Option Nat} (hph : s.seq.phase = .commit h) (hres : s.seq.res = res) :
    processStep s = .next ((s.putCursor h (cursorAfter s.params res)).goto (afterHalf h)) := by
  rw [processStep_commit hph, stepCommit, hres]

/-- Settles O27: the three last positions, with the cursor rule by the result. -/
theorem emitCommitAndRespond : Obligations.EmitCommitAndRespond := by
  refine fun s => ⟨fun h hph => processStep_emit hph,
    fun hph => ⟨fun r hres => processStep_commit_of_res hph hres, fun hres => processStep_commit_of_res hph hres⟩,
    fun hph => ⟨fun r hres => processStep_commit_of_res hph hres, fun hres => processStep_commit_of_res hph hres⟩,
    fun hph => ?_⟩
  rw [processStep_respond hph, stepRespond, respond_ok_zero]
  rfl

/-! ### What a step leaves alone -/

/-- The cases of `Turns` are those of `processStep`: the converse of `processStep_turns`. -/
theorem processStep_of_turns {t : State} (ht : Turns s t) : processStep s = .next t := by
  cases ht with
  | idle hph => exact processStep_idle hph
  | testSet h hph hf => exact (processStep_test hph).trans (stepTest_set hf)
  | testClear h hph hf => rw [processStep_test hph, stepTest, testAndClear, hf]
  | snap h hph => exact processStep_snap_eq hph
  | readPrev h hph hprev hlt => exact (processStep_search hph).trans (stepSearch_first hprev hlt)
  | hit h hph v hprev hlt hc => rw [processStep_search hph, stepSearch_second hprev hlt, if_pos hc]
  | miss h hph v hprev hlt hc => rw [processStep_search hph, stepSearch_second hprev hlt, if_neg (ne_true_of_eq_false hc)]
  | column h hph hlt hcol => rw [processStep_map hph, stepMap, bufRead_of_lt hlt, if_pos hcol]
  | lastColumn h hph hlt hcol => rw [processStep_map hph, stepMap, bufRead_of_lt hlt, if_neg hcol]
  | emit h hph => exact processStep_emit hph
  | commit h hph => exact processStep_commit hph
  | respond hph => exact processStep_respond hph


/-- The registers a PROCESS writes (10_state.md R36). -/
theorem turns_frame {t : State} (ht : Turns s t) :
    t = { s with halfFlag := t.halfFlag, fullFlag := t.fullFlag, cursor0 := t.cursor0, cursor1 := t.cursor1,
                 frame := t.frame, seq := t.seq, out := t.out } := by
  cases ht with
  | testSet h => cases h <;> rfl
  | testClear h => cases h <;> rfl
  | commit h => cases h <;> rfl
  | snap h => unfold enterPair; split <;> rfl
  | miss h => unfold enterPair; split <;> rfl
  | _ => rfl

/-- Settles O28: case by case of `Turns`; only the test writes a flag, and it writes 0. -/
theorem processStepFrame : Obligations.ProcessStepFrame := by
  intro s t hs
  have ht := processStep_turns hs
  obtain ⟨-, -, -, -, hmem, -⟩ := turns_keep ht
  refine ⟨turns_frame ht, fun a => by rw [hmem], ?_⟩
  cases ht with
  | testSet h => cases h <;> simp
  | testClear h => cases h <;> simp
  | commit h => cases h <;> simp
  | _ => simp

end Sys2Proof.Machine
end

section
/-!
PROOFS. What one step puts out: at most one output, frames from the emit step only (43_render_interface.md R155, R156), one
response for each command word (30_encoding.md R85).
-/

namespace Sys2Proof.Machine

variable {s t : State} {i : Instr} {e : Option Event}

/-! ### The constants, and the outputs as a list -/

theorem fires_keep (h : Fires s e t) : t.params = s.params ∧ t.powerOn = s.powerOn := by
  have hexec {i : Instr} (hx : Execs s i t) : t.params = s.params ∧ t.powerOn = s.powerOn := by
    obtain ⟨hp, hn, -⟩ := execs_keep hx
    exact ⟨hp, hn⟩
  cases h with
  | arm => exact ⟨rfl, rfl⟩
  | reserved => exact ⟨rfl, rfl⟩
  | sample _ _ _ hx => exact hexec hx
  | command _ _ _ _ _ _ hx => exact hexec hx
  | turn _ _ _ ht =>
    obtain ⟨-, -, -, -, -, hp, hn, -⟩ := turns_keep ht
    exact ⟨hp, hn⟩

theorem step_keep (h : step s = .next t) : t.params = s.params ∧ t.powerOn = s.powerOn :=
  fires_keep (s := s.popped) (step_fires h).2

/-- An operation puts out a response or nothing. -/
theorem execs_out (h : Execs s i t) : t.out = s.out ∨ ∃ st v, t.out = s.out ++ [.response (responseWord st v)] := by
  cases h with
  | processStopped => exact .inl rfl
  | processRunning => exact .inl rfl
  | dropped => exact .inl rfl
  | sample => exact .inl rfl
  | _ => exact .inr ⟨_, _, rfl⟩

/-- A step puts out a response, FRAME, or nothing. -/
theorem fires_out (h : Fires s e t) :
    t.out = s.out ∨ (∃ st v, t.out = s.out ++ [.response (responseWord st v)]) ∨
      ((e = none ∨ e = some .turn) ∧ t.out = s.out ++ [.frame s.frame] ∧
        ∃ h, s.seq.phase = .emit h ∧ t.seq.phase = .commit h) := by
  cases h with
  | arm => exact .inl rfl
  | reserved => exact .inr (.inl ⟨_, _, rfl⟩)
  | sample _ _ _ hx => exact (execs_out hx).imp_right .inl
  | command _ _ _ _ _ _ hx => exact (execs_out hx).imp_right .inl
  | turn _ he _ ht =>
    rcases turns_out ht with ⟨hout, -⟩ | ⟨h, hph, hout, hph'⟩ | ⟨-, hout, -⟩
    · exact .inl hout
    · exact .inr (.inr ⟨he, hout, h, hph, hph'⟩)
    · exact .inr (.inl ⟨_, _, hout⟩)

/-- Settles O46: `fires_keep` and `fires_out`. -/
theorem outputsOnlyGrow : Obligations.OutputsOnlyGrow := by
  intro s t hs
  obtain ⟨hp, hn⟩ := step_keep hs
  refine ⟨hp, hn, ?_⟩
  rcases fires_out (step_fires hs).2 with hout | ⟨st, v, hout⟩ | ⟨-, hout, -⟩
  · exact ⟨[], by rw [hout, List.append_nil], Nat.zero_le _⟩
  · exact ⟨_, hout, Nat.le_refl _⟩
  · exact ⟨_, hout, Nat.le_refl _⟩

/-! ### Frames -/

theorem frames_of_out_eq (h : t.out = s.out) : t.frames = s.frames := congrArg (List.filterMap _) h

theorem frames_response {w : Word} (h : t.out = s.out ++ [.response w]) : t.frames = s.frames :=
  (frames_append h).trans (List.append_nil _)

theorem frames_frame {ys : List Nat} (h : t.out = s.out ++ [.frame ys]) : t.frames = s.frames ++ [ys] := frames_append h

/-- Settles O47: of the outputs of `fires_out` only FRAME is a frame. -/
theorem framesComeFromEmitOnly : Obligations.FramesComeFromEmitOnly := by
  intro s t hs hne
  rcases fires_out (step_fires hs).2 with hout | ⟨st, v, hout⟩ | ⟨he, hout, h, hph, hph'⟩
  · exact absurd (frames_of_out_eq hout) hne
  · exact absurd (frames_response hout) hne
  · exact ⟨comesTurn_of_head rfl he, frames_frame hout, h, hph, hph'⟩

/-! ### Responses -/

/-- The responses put out and the one due while a PROCESS is in progress. -/
def answers (s : State) : Nat := s.responses.length + responsesDue s

theorem responsesDue_of_idle (h : s.seq.phase = .idle) : responsesDue s = 0 := by
  simp [responsesDue, State.busy, h]

theorem responsesDue_of_busy (h : s.seq.phase ≠ .idle) : responsesDue s = 1 := by
  simp [responsesDue, State.busy, h]

theorem responsesDue_congr (h : t.seq.phase = .idle ↔ s.seq.phase = .idle) : responsesDue t = responsesDue s := by
  by_cases hs : s.seq.phase = .idle
  · rw [responsesDue_of_idle hs, responsesDue_of_idle (h.2 hs)]
  · rw [responsesDue_of_busy hs, responsesDue_of_busy (mt h.1 hs)]

theorem responses_of_out_eq (h : t.out = s.out) : t.responses = s.responses := congrArg (List.filterMap _) h

theorem responses_length_response {w : Word} (h : t.out = s.out ++ [.response w]) :
    t.responses.length = s.responses.length + 1 := by
  rw [responses_append h]
  exact List.length_append

theorem responses_frame {ys : List Nat} (h : t.out = s.out ++ [.frame ys]) : t.responses = s.responses :=
  (responses_append h).trans (List.append_nil _)

theorem answers_respond {w : Word} (hout : t.out = s.out ++ [.response w]) (hseq : t.seq = s.seq) :
    answers t = answers s + 1 := by
  have hdue : responsesDue t = responsesDue s := responsesDue_congr (by rw [hseq])
  rw [answers, answers, responses_length_response hout, hdue, Nat.add_right_comm]

/-- A command is answered at once, or leaves its response due. -/
theorem execs_answers (hi : ∀ v, i ≠ .pSample v) (h : Execs s i t) : answers t = answers s + 1 := by
  cases h with
  | dropped v => exact absurd rfl (hi v)
  | sample v => exact absurd rfl (hi v)
  | processStopped hidle =>
    rw [answers, answers, responsesDue_of_idle hidle, responsesDue_of_busy (by simp)]
    rfl
  | processRunning hidle =>
    rw [answers, answers, responsesDue_of_idle hidle, responsesDue_of_busy (by simp)]
    rfl
  | _ => exact answers_respond rfl rfl

theorem turns_answers (ht : Turns s t) : answers t = answers s := by
  rcases turns_out ht with ⟨hout, hph⟩ | ⟨h, hph, hout, hph'⟩ | ⟨hph, hout, hph'⟩
  · rw [answers, answers, responses_of_out_eq hout, responsesDue_congr (turns_idle_iff ht hph)]
  · have hdue : responsesDue t = responsesDue s := responsesDue_congr (by simp [hph, hph'])
    rw [answers, answers, responses_frame hout, hdue]
  · rw [answers, answers, responses_length_response hout, responsesDue_of_idle hph', responsesDue_of_busy (by simp [hph])]

theorem fires_answers (h : Fires s e t) :
    (∃ a w, e = some (.command a w)) ∧ answers t = answers s + 1 ∨
      (∀ a w, e ≠ some (.command a w)) ∧ answers t = answers s := by
  cases h with
  | arm => exact .inr ⟨nofun, rfl⟩
  | reserved a w => exact .inl ⟨⟨a, w, rfl⟩, answers_respond rfl rfl⟩
  | command a w _ i hd _ hx =>
    exact .inl ⟨⟨a, w, rfl⟩, execs_answers (fun v hv => decodeCommand_ne_pSample (hv ▸ hd)) hx⟩
  | turn _ he _ ht => exact .inr ⟨by rcases he with rfl | rfl <;> exact nofun, turns_answers ht⟩
  | sample w _ _ hx => cases hx <;> exact .inr ⟨nofun, rfl⟩

theorem comesWord_iff_head : (∃ w, comesWord s w) ↔ ∃ a w, s.inbox.head? = some (.command a w) := by
  refine ⟨fun ⟨w, a, rest, hib⟩ => ⟨a, w, by rw [hib]; rfl⟩, fun ⟨a, w, he⟩ => ⟨w, comesWord_of_head he⟩⟩

/-- Settles O48: `fires_answers` at the head of the schedule. -/
theorem oneResponsePerCommand : Obligations.OneResponsePerCommand := by
  intro s t hs
  rw [comesWord_iff_head]
  rcases fires_answers (step_fires hs).2 with ⟨hw, hn⟩ | ⟨hw, hn⟩
  · exact ⟨fun _ => hn, fun hno => absurd hw hno⟩
  · exact ⟨fun ⟨a, w, he⟩ => absurd he (hw a w), fun _ => hn⟩

end Sys2Proof.Machine
end

section
/-!
PROOFS. What a step can do to the capture registers (BUF, WPTR, the flags, the cursors) and to the trigger configuration and its
snapshot: one inversion lemma for each, and the statements of 10_state.md that follow (R22 to R32).
-/

namespace Sys2Proof.Machine

variable {s t : State} {i : Instr} {e : Option Event} {h : Half}

/-! ### The capture registers -/

/-- The registers of the capture are the same: buffer, WPTR, flags and cursors (10_state.md R24 to R27). -/
structure CaptureKept (s t : State) : Prop where
  mem : t.mem = s.mem
  wptr : t.wptr = s.wptr
  flag : ∀ h, t.flag h = s.flag h
  cursor : ∀ h, t.cursor h = s.cursor h

theorem CaptureKept.of_fields (hm : t.mem = s.mem) (hw : t.wptr = s.wptr) (hh : t.halfFlag = s.halfFlag)
    (hf : t.fullFlag = s.fullFlag) (h0 : t.cursor0 = s.cursor0) (h1 : t.cursor1 = s.cursor1) : CaptureKept s t :=
  ⟨hm, hw, fun | .h0 => hh | .h1 => hf, fun | .h0 => h0 | .h1 => h1⟩

/-- What one delivered event does to the capture registers. -/
inductive CaptureStep (s : State) : Option Event → State → Prop where
  | kept (e : Option Event) (t : State) (hk : CaptureKept s t) : CaptureStep s e t
  | sample (w : SampleWord) (hr : s.run = .running) (hlt : s.wptr < s.params.L) :
      CaptureStep s (some (.sample w)) (s.stored w.toNat)
  | start (a : Agent) (hi : s.seq.phase = .idle) (hr : s.run = .stopped) :
      CaptureStep s (some (.command a 0x10000000)) (respond .ok 0 s.armed)
  | turn (e : Option Event) (he : e = none ∨ e = some .turn) (t : State) (ht : Turns s t) : CaptureStep s e t

/-- Of the commands only a START that arms touches the capture registers. -/
theorem execs_capture {a : Agent} {w : Word} (hd : decodeCommand w = .instr i) (h : Execs s i t) :
    CaptureStep s (some (.command a w)) t := by
  cases h with
  | startArmed hi hr => exact decodeCommand_start hd ▸ .start a hi hr
  | dropped => exact absurd hd decodeCommand_ne_pSample
  | sample => exact absurd hd decodeCommand_ne_pSample
  | _ => exact .kept _ _ (.of_fields rfl rfl rfl rfl rfl rfl)

theorem fires_capture (h : Fires s e t) : CaptureStep s e t := by
  cases h with
  | arm => exact .kept _ _ (.of_fields rfl rfl rfl rfl rfl rfl)
  | reserved => exact .kept _ _ (.of_fields rfl rfl rfl rfl rfl rfl)
  | turn _ he _ ht => exact .turn _ he _ ht
  | command _ _ _ _ hd _ hx => exact execs_capture hd hx
  | sample w _ _ hx =>
    cases hx with
    | dropped => exact .kept _ _ (.of_fields rfl rfl rfl rfl rfl rfl)
    | sample _ hr hlt => exact .sample w hr hlt

/-- `fires_capture` for a step, with the head of the schedule named. -/
theorem step_capture (h : step s = .next t) : ∃ e, s.inbox.head? = e ∧ CaptureStep s.popped e t :=
  ⟨_, rfl, fires_capture (step_fires h).2⟩

/-! ### The flags and cursors in a PROCESS -/

/-- Only the test of a half writes its flag (44_capture_driver.md R170). -/
theorem turns_flag (ht : Turns s t) (h : Half) :
    t.flag h = s.flag h ∨ s.seq.phase = .test h ∧ t.flag h = false := by
  have htest (h' : Half) (ph : Phase) (hph : s.seq.phase = .test h') :
      ((s.putFlag h' false).goto ph).flag h = s.flag h ∨
        s.seq.phase = .test h ∧ ((s.putFlag h' false).goto ph).flag h = false := by
    by_cases heq : h = h'
    · subst heq
      exact .inr ⟨hph, putFlag_flag_same s h false⟩
    · exact .inl (putFlag_flag_other s h' h false heq)
  cases ht with
  | testSet h' hph => exact htest h' _ hph
  | testClear h' hph => exact htest h' _ hph
  | commit h' => exact .inl (by cases h <;> simp)
  | _ => exact .inl (by cases h <;> simp)

/-- Only the cursor write of a half writes its cursor (44_capture_driver.md R171). -/
theorem turns_cursor (ht : Turns s t) (h : Half) : t.cursor h = s.cursor h ∨ s.seq.phase = .commit h := by
  cases ht with
  | commit h' hph =>
    by_cases heq : h = h'
    · exact .inr (heq ▸ hph)
    · exact .inl (putCursor_cursor_other s h' h _ heq)
  | _ => exact .inl (by cases h <;> simp)

/-- Settles O41: by the cases of `CaptureStep`; a sample moves WPTR and stores at it, an arming moves WPTR to 0. -/
theorem onlyTheProducerWritesTheBuffer : Obligations.OnlyTheProducerWritesTheBuffer := by
  intro s t hs
  obtain ⟨e, he, hc⟩ := step_capture hs
  have hcell (hm : t.mem = s.mem) (k : Nat) : t.cell k = s.cell k := by
    obtain ⟨hp, hn⟩ := step_keep hs
    exact cell_congr hm hp hn k
  cases hc with
  | kept _ _ hk => exact ⟨fun hm => absurd hk.mem hm, fun k _ => hcell hk.mem k, fun hw => absurd hk.wptr hw⟩
  | sample w hr =>
    exact ⟨fun _ => ⟨comesSample_of_head he, hr⟩, fun k hk => cell_stored_other s.popped _ hk,
      fun _ => .inl ⟨comesSample_of_head he, hr⟩⟩
  | start a _ hr =>
    exact ⟨fun hm => absurd rfl hm, fun k _ => hcell rfl k, fun _ => .inr ⟨comesWord_of_head he, hr, rfl⟩⟩
  | turn _ _ _ ht =>
    obtain ⟨-, -, -, hw, hm, -⟩ := turns_keep ht
    exact ⟨fun hm' => absurd hm hm', fun k _ => hcell hm k, fun hw' => absurd hw hw'⟩

/-- Settles O42: of the cases of `CaptureStep` an arming makes a cursor 0, and a turn is `turns_cursor`. -/
theorem cursorChangesOnlyAtCommitOrStart : Obligations.CursorChangesOnlyAtCommitOrStart := by
  intro s t h hs hne
  obtain ⟨e, he, hc⟩ := step_capture hs
  cases hc with
  | kept _ _ hk => exact absurd (hk.cursor h) hne
  | sample => exact absurd (by cases h <;> rfl) hne
  | start _ _ hr => exact .inr ⟨comesWord_of_head he, hr, by cases h <;> rfl⟩
  | turn _ he' _ ht => exact .inl ⟨comesTurn_of_head he he', (turns_cursor ht h).resolve_left hne⟩

/-- Settles O43: a sample sets flags by `flag_stored`, an arming clears them, and a turn is `turns_flag`. -/
theorem flagsAreSetByFillsOnly : Obligations.FlagsAreSetByFillsOnly := by
  intro s t h hlt hs
  obtain ⟨e, he, hc⟩ := step_capture hs
  cases hc with
  | kept _ _ hk =>
    have hflag : t.flag h = s.flag h := hk.flag h
    exact ⟨fun h0 h1 => by simp [hflag, h0] at h1, fun h1 h0 => by simp [hflag, h1] at h0⟩
  | sample w hr =>
    have hp := (step_fires hs).1
    have hflag := flag_stored (s := s.popped) hp hlt w.toNat h
    refine ⟨fun h0 h1 => ⟨comesSample_of_head he, hr, ?_⟩, fun h1 h0 => ?_⟩
    · have hL := hp.two_half
      have hend : s.wptr + 1 = halfBase s.params h + s.params.half := by
        rw [h1, show s.popped.flag h = false from h0, Bool.false_or] at hflag
        exact of_decide_eq_true hflag.symm
      cases h <;> simp only [halfBase] at hend ⊢ <;> omega
    · rw [h0, show s.popped.flag h = true from h1, Bool.true_or] at hflag
      cases hflag
  | start _ _ hr => exact ⟨fun _ h1 => by (cases h <;> cases h1), fun _ _ => .inr ⟨comesWord_of_head he, hr⟩⟩
  | turn _ he' _ ht =>
    rcases turns_flag ht h with hflag | ⟨hph, hflag⟩
    · have hflag : t.flag h = s.flag h := hflag
      exact ⟨fun h0 h1 => by simp [hflag, h0] at h1, fun h1 h0 => by simp [hflag, h1] at h0⟩
    · exact ⟨fun _ h1 => by simp [hflag] at h1, fun _ _ => .inl ⟨comesTurn_of_head he he', hph⟩⟩

/-- Settles O45: while Stopped no case of `CaptureStep` is a sample, and outside HANDLE no turn is a flag test. -/
theorem stoppedBlockKeepsItsBuffer : Obligations.StoppedBlockKeepsItsBuffer := by
  intro s t hs hr hn0 hn1
  obtain ⟨e, he, hc⟩ := step_capture hs
  cases hc with
  | kept _ _ hk => exact ⟨hk.mem, .inl ⟨hk.wptr, hk.flag .h0, hk.flag .h1⟩⟩
  | sample _ hr' => cases hr.symm.trans hr'
  | start => exact ⟨rfl, .inr ⟨comesWord_of_head he, rfl, rfl, rfl⟩⟩
  | turn _ _ _ ht =>
    obtain ⟨-, -, -, hw, hm, -⟩ := turns_keep ht
    have h0 := (turns_flag ht .h0).resolve_right fun hph => hn0 (.inl hph.1)
    have h1 := (turns_flag ht .h1).resolve_right fun hph => hn1 (.inl hph.1)
    exact ⟨hm, .inl ⟨hw, h0, h1⟩⟩

/-! ### The order of the halves -/

/-- The half that a position of SEQ handles (44_capture_driver.md R170). -/
def Phase.handled : Phase → Option Half
  | .idle | .respond => none
  | .test h | .snap h | .search h | .map h | .emit h | .commit h => some h

theorem handling_iff : handling h s ↔ s.seq.phase.handled = some h := by
  unfold handling
  cases s.seq.phase <;> simp [Phase.handled]

/-- The scan stays in its half. -/
theorem enterPair_handled (s : State) (h : Half) (i : Nat) : (enterPair h i s).seq.phase.handled = some h := by
  rw [enterPair_seq]
  split <;> rfl

/-- A turn stays in the half it handles, or goes on to what follows that half (44_capture_driver.md R173). -/
theorem turns_handling (ht : Turns s t) (hh : handling h s) : handling h t ∨ t.seq.phase = afterHalf h := by
  rw [handling_iff] at hh ⊢
  have hhalf {h' : Half} {ph : Phase} (hph : s.seq.phase = ph) (hph' : ph.handled = some h') : h' = h :=
    Option.some.inj (hph'.symm.trans (hph ▸ hh))
  cases ht with
  | idle => exact .inl hh
  | respond hph => rw [hph] at hh; cases hh
  | testClear _ hph => cases hhalf hph rfl; exact .inr rfl
  | commit _ hph => cases hhalf hph rfl; exact .inr rfl
  | snap _ hph => cases hhalf hph rfl; exact .inl (enterPair_handled ..)
  | miss _ hph => cases hhalf hph rfl; exact .inl (enterPair_handled ..)
  | testSet _ hph => cases hhalf hph rfl; exact .inl rfl
  | hit _ hph => cases hhalf hph rfl; exact .inl rfl
  | emit _ hph => cases hhalf hph rfl; exact .inl rfl
  | lastColumn _ hph => cases hhalf hph rfl; exact .inl rfl
  | readPrev => exact .inl hh
  | column => exact .inl hh

/-- SEQ and the cursors are kept by everything but a command between commands and a turn. -/
theorem fires_busy (hb : s.seq.phase ≠ .idle) (h : Fires s e t) :
    (t.seq = s.seq ∧ ∀ h, t.cursor h = s.cursor h) ∨ (e = none ∨ e = some .turn) ∧ Turns s t := by
  have hexec {i : Instr} (hx : Execs s i t) : t.seq = s.seq ∧ ∀ h, t.cursor h = s.cursor h := by
    obtain ⟨hseq, h0, h1, -⟩ := execs_keep_of_busy hx hb
    exact ⟨hseq, fun | .h0 => h0 | .h1 => h1⟩
  cases h with
  | arm => exact .inl ⟨rfl, fun h => by cases h <;> rfl⟩
  | reserved => exact .inl ⟨rfl, fun h => by cases h <;> rfl⟩
  | sample _ _ _ hx => exact .inl (hexec hx)
  | command _ _ _ _ _ _ hx => exact .inl (hexec hx)
  | turn _ he _ ht => exact .inr ⟨he, ht⟩

theorem handling_busy (hh : handling h s) : s.seq.phase ≠ .idle := by
  rw [handling_iff] at hh
  exact fun hi => by rw [hi] at hh; cases hh

/-- While a half is handled the step stays there or goes on to what follows, and the other half's flag stays set. -/
theorem step_handling {h' : Half} (hs : step s = .next t) (hh : handling h s) (hne : h' ≠ h) :
    (s.flag h' = true → t.flag h' = true) ∧ (handling h t ∨ t.seq.phase = afterHalf h) := by
  have hb : s.seq.phase ≠ .idle := handling_busy hh
  constructor
  · intro hf
    obtain ⟨e, -, hc⟩ := step_capture hs
    cases hc with
    | kept _ _ hk => exact (hk.flag h').trans hf
    | sample w => cases h' <;> simp only [flag_h0, flag_h1] at hf ⊢ <;> simp [hf]
    | start _ hi => exact absurd hi hb
    | turn _ _ _ ht =>
      refine ((turns_flag ht h').resolve_right fun ⟨hph, _⟩ => hne ?_).trans hf
      rw [handling_iff, show s.seq.phase = .test h' from hph] at hh
      exact Option.some.inj hh
  · rcases fires_busy (s := s.popped) hb (step_fires hs).2 with ⟨hseq, -⟩ | ⟨-, ht⟩
    · exact .inl (by rwa [handling_iff, hseq, ← handling_iff])
    · exact turns_handling ht hh

/-- Settles O38: `step_handling` for both halves. -/
theorem halfZeroIsServedFirst : Obligations.HalfZeroIsServedFirst := fun _ _ hs =>
  ⟨fun hh => step_handling (h' := .h1) hs hh nofun, fun hh => step_handling (h' := .h0) hs hh nofun⟩

/-! ### The trigger configuration -/

theorem execs_trig (h : Execs s i t) :
    (t.trigLevel = s.trigLevel ∧ t.trigEdge = s.trigEdge) ∨
      ∃ level edge, i = .setTrigger level edge ∧ t.trigLevel = clampLevel s.params level ∧ t.trigEdge = edge := by
  cases h with
  | setTrigger level edge => exact .inr ⟨level, edge, rfl, rfl, rfl⟩
  | _ => exact .inl ⟨rfl, rfl⟩

/-- Settles O40: of the operations only SET_TRIGGER writes the pair, and no other event does. -/
theorem triggerChangesOnlyBySetTrigger : Obligations.TriggerChangesOnlyBySetTrigger := by
  intro s t hs hne
  have hkept : ¬ (t.trigLevel = s.trigLevel ∧ t.trigEdge = s.trigEdge) := not_and_or.2 hne
  obtain ⟨-, hf⟩ := step_fires hs
  generalize he : s.inbox.head? = e at hf
  cases hf with
  | arm => exact absurd ⟨rfl, rfl⟩ hkept
  | reserved => exact absurd ⟨rfl, rfl⟩ hkept
  | turn _ _ _ ht =>
    obtain ⟨-, hlevel, hedge, -⟩ := turns_keep ht
    exact absurd ⟨hlevel, hedge⟩ hkept
  | sample _ _ _ hx =>
    obtain ⟨_, _, hi, -⟩ := (execs_trig hx).resolve_left hkept
    cases hi
  | command a w _ _ hd _ hx =>
    obtain ⟨level, edge, rfl, hlevel, hedge⟩ := (execs_trig hx).resolve_left hkept
    exact ⟨w, level, edge, comesWord_of_head he, hd, hlevel, hedge⟩

/-! ### The snapshot -/

/-- No operation writes a work value of SEQ. -/
theorem execs_seq (h : Execs s i t) : t.seq = { s.seq with phase := t.seq.phase } := by
  cases h <;> rfl

theorem enterPair_snapshot (s : State) (h : Half) (i : Nat) :
    (enterPair h i s).seq.lvl = s.seq.lvl ∧ (enterPair h i s).seq.edg = s.seq.edg := by
  rw [enterPair_seq]
  split <;> exact ⟨rfl, rfl⟩

theorem turns_snapshot (ht : Turns s t) :
    (t.seq.lvl = s.seq.lvl ∧ t.seq.edg = s.seq.edg) ∨
      ∃ h, s.seq.phase = .snap h ∧ t.seq.lvl = s.trigLevel ∧ t.seq.edg = s.trigEdge := by
  cases ht with
  | snap h hph => exact .inr ⟨h, hph, enterPair_snapshot s.snapped h _⟩
  | miss h => exact .inl (enterPair_snapshot s h _)
  | testSet | testClear | commit => exact .inl (by simp)
  | _ => exact .inl ⟨rfl, rfl⟩

/-- Settles O44: no operation writes the snapshot, and a turn is `turns_snapshot`. -/
theorem snapshotIsKeptDuringASearch : Obligations.SnapshotIsKeptDuringASearch := by
  intro s t hs hne
  have hkept : ¬ (t.seq.lvl = s.seq.lvl ∧ t.seq.edg = s.seq.edg) := not_and_or.2 hne
  obtain ⟨-, hf⟩ := step_fires hs
  generalize he : s.inbox.head? = e at hf
  cases hf with
  | arm => exact absurd ⟨rfl, rfl⟩ hkept
  | reserved => exact absurd ⟨rfl, rfl⟩ hkept
  | sample _ _ _ hx => exact absurd (by rw [execs_seq hx]; exact ⟨rfl, rfl⟩) hkept
  | command _ _ _ _ _ _ hx => exact absurd (by rw [execs_seq hx]; exact ⟨rfl, rfl⟩) hkept
  | turn _ he' _ ht => exact ⟨comesTurn_of_head he he', (turns_snapshot ht).resolve_left hkept⟩

end Sys2Proof.Machine
end

section
/-!
PROOFS. The frames put out and the frames still due: a frame needs a completed half of its own (44_capture_driver.md R177).
-/

namespace Sys2Proof.Machine

variable {s t : State} {i : Instr} {e : Option Event}

/-- 1 from the snapshot of a half to the emit of its frame. -/
def Phase.frameDue : Phase → Nat
  | .snap _ | .search _ | .map _ | .emit _ => 1
  | .idle | .test _ | .commit _ | .respond => 0

theorem framesDue_eq (s : State) : framesDue s = s.halfFlag.toNat + s.fullFlag.toNat + s.seq.phase.frameDue := by
  unfold framesDue
  cases s.seq.phase <;> rfl

/-- The frames put out and those still due. -/
def frameCount (s : State) : Nat := s.frames.length + framesDue s

theorem frameCount_eq (s : State) :
    frameCount s = s.frames.length + (s.halfFlag.toNat + s.fullFlag.toNat + s.seq.phase.frameDue) := by
  rw [frameCount, framesDue_eq]

theorem frameCount_congr (hout : t.frames = s.frames) (hhalf : t.halfFlag = s.halfFlag) (hfull : t.fullFlag = s.fullFlag)
    (hph : t.seq.phase.frameDue = s.seq.phase.frameDue) : frameCount t = frameCount s := by
  rw [frameCount_eq, frameCount_eq, hout, hhalf, hfull, hph]

/-- No command makes a frame due: an arming clears the flags, and a PROCESS begins with none due. -/
theorem execs_frameCount (hi : ∀ v, i ≠ .pSample v) (h : Execs s i t) : frameCount t ≤ frameCount s := by
  have hout := execs_frames h
  cases h with
  | dropped v => exact absurd rfl (hi v)
  | sample v => exact absurd rfl (hi v)
  | startArmed =>
    rw [frameCount_eq, frameCount_eq, hout]
    exact Nat.add_le_add_left (Nat.add_le_add_right (Nat.zero_le _) _) _
  | processStopped hidle => exact Nat.le_of_eq (frameCount_congr hout rfl rfl (by rw [hidle]; rfl))
  | processRunning hidle => exact Nat.le_of_eq (frameCount_congr hout rfl rfl (by rw [hidle]; rfl))
  | _ => exact Nat.le_of_eq (frameCount_congr hout rfl rfl rfl)

/-- The flags after a sample: no more than one is raised, as HALF is not 0 (40_sample_source.md R101). -/
theorem stored_frameCount (hp : s.params.valid) (v : Nat) :
    frameCount (s.stored v) ≤ frameCount s + 1 ∧
      (¬ (nextIndex s.params s.wptr = s.params.half ∨ nextIndex s.params s.wptr = 0) →
        frameCount (s.stored v) = frameCount s) := by
  have hhalf := hp.half_pos
  have hframes : (s.stored v).frames = s.frames := frames_of_out_eq rfl
  rw [frameCount_eq, frameCount_eq, hframes]
  simp only [raiseFlags_halfFlag, raiseFlags_fullFlag, raiseFlags_seq]
  generalize nextIndex s.params s.wptr = n
  by_cases h0 : n = 0
  · have hne : n ≠ s.params.half := by omega
    have hle := Bool.toNat_le (s.fullFlag || decide (n = 0))
    simp only [hne, decide_false, Bool.or_false]
    exact ⟨by omega, fun hno => absurd (.inr h0) hno⟩
  · have hle := Bool.toNat_le (s.halfFlag || decide (n = s.params.half))
    simp only [h0, decide_false, Bool.or_false]
    refine ⟨by omega, fun hno => ?_⟩
    rw [decide_eq_false fun heq => hno (.inl heq), Bool.or_false]

theorem Phase.frameDue_le (ph : Phase) : ph.frameDue ≤ 1 := by cases ph <;> simp [frameDue]

theorem afterHalf_frameDue (h : Half) : (afterHalf h).frameDue = 0 := by cases h <;> rfl

/-- A turn that keeps frames and flags, at a position with a frame due. -/
theorem frameCount_le_of_due (hout : t.out = s.out) (hhalf : t.halfFlag = s.halfFlag) (hfull : t.fullFlag = s.fullFlag)
    (hph : s.seq.phase.frameDue = 1) : frameCount t ≤ frameCount s := by
  have hdue := t.seq.phase.frameDue_le
  rw [frameCount_eq, frameCount_eq, frames_of_out_eq hout, hhalf, hfull, hph]
  omega

/-- A turn moves what is due: from a flag to the search, from FRAME to the frames put out; a miss drops it. -/
theorem turns_frameCount (ht : Turns s t) : frameCount t ≤ frameCount s := by
  cases ht with
  | idle => exact Nat.le_refl _
  | testSet h hph hf =>
    have hframes : ((s.putFlag h false).goto (.snap h)).frames = s.frames := frames_of_out_eq (by simp)
    rw [frameCount_eq, frameCount_eq, hframes, hph]
    cases h <;> simp only [flag_h0, flag_h1] at hf <;> simp [hf, Phase.frameDue, Nat.add_comm]
  | testClear h hph hf =>
    rw [show s.putFlag h false = s from hf ▸ putFlag_self s h]
    exact Nat.le_of_eq (frameCount_congr (frames_of_out_eq rfl) rfl rfl (by rw [hph]; exact afterHalf_frameDue h))
  | snap h hph => exact frameCount_le_of_due (by simp) (by simp) (by simp) (by rw [hph]; rfl)
  | miss h hph => exact frameCount_le_of_due (by simp) (by simp) (by simp) (by rw [hph]; rfl)
  | readPrev h hph => exact frameCount_le_of_due rfl rfl rfl (by rw [hph]; rfl)
  | hit h hph => exact frameCount_le_of_due rfl rfl rfl (by rw [hph]; rfl)
  | column h hph => exact frameCount_le_of_due rfl rfl rfl (by rw [hph]; rfl)
  | lastColumn h hph => exact frameCount_le_of_due rfl rfl rfl (by rw [hph]; rfl)
  | emit h hph =>
    have hframes : ((emitFrame s.frame s).goto (.commit h)).frames = s.frames ++ [s.frame] := frames_frame rfl
    rw [frameCount_eq, frameCount_eq, hframes, hph, List.length_append]
    simp only [goto_halfFlag, goto_fullFlag, emitFrame_halfFlag, emitFrame_fullFlag, goto_seq, Phase.frameDue,
      List.length_singleton]
    omega
  | commit h hph =>
    exact Nat.le_of_eq (frameCount_congr (frames_of_out_eq (by simp)) (by simp) (by simp)
      (by rw [hph]; exact afterHalf_frameDue h))
  | respond hph =>
    exact Nat.le_of_eq (frameCount_congr (frames_response rfl) rfl rfl (by rw [hph]; rfl))

/-- Settles O37: only a sample adds to the frames put out and due, and only with the half it completes. -/
theorem eachFrameNeedsACompletedHalf : Obligations.EachFrameNeedsACompletedHalf := by
  intro s t hs
  obtain ⟨hp, hf⟩ := step_fires hs
  have hle (h : frameCount t ≤ frameCount s) :
      (completesHalf s → frameCount t ≤ frameCount s + 1) ∧ (¬ completesHalf s → frameCount t ≤ frameCount s) :=
    ⟨fun _ => Nat.le_succ_of_le h, fun _ => h⟩
  generalize he : s.inbox.head? = e at hf
  cases hf with
  | arm => exact hle (Nat.le_refl _)
  | reserved => exact hle (Nat.le_of_eq (frameCount_congr (frames_response rfl) rfl rfl rfl))
  | turn _ _ _ ht => exact hle (turns_frameCount (s := s.popped) ht)
  | command _ _ _ _ hd _ hx =>
    exact hle (execs_frameCount (s := s.popped) (fun v hv => decodeCommand_ne_pSample (hv ▸ hd)) hx)
  | sample w _ _ hx =>
    cases hx with
    | dropped => exact hle (Nat.le_refl _)
    | sample _ hr =>
      obtain ⟨hone, hnone⟩ := stored_frameCount (s := s.popped) hp w.toNat
      exact ⟨fun _ => hone, fun hno => Nat.le_of_eq (hnone fun hn => hno ⟨hr, comesSample_of_head he, hn⟩)⟩

end Sys2Proof.Machine
end

section
/-!
PROOFS. The search of a half that nobody writes (41_trigger_search.md R126 to R129).
-/

namespace Sys2Proof.Machine

variable {s t : State} {h : Half} {start lvl n i r : Nat} {edg : Edge}

/-- A crossing ends at index `r` of half `h` (41_trigger_search.md R121). -/
def CrossingAt (s : State) (h : Half) (edg : Edge) (lvl r : Nat) : Prop :=
  Crossing edg lvl (s.cell (halfBase s.params h + (r - 1))) (s.cell (halfBase s.params h + r))

/-- The scan's test of pair `i` is the crossing that ends at `i + 1`. -/
theorem crosses_iff_crossingAt :
    crosses edg lvl (s.cell (halfBase s.params h + i)) (s.cell (halfBase s.params h + i + 1)) = true ↔
      CrossingAt s h edg lvl (i + 1) :=
  crosses_iff

theorem scanPure_hit (hc : CrossingAt s h edg lvl (i + 1)) : scanPure s h lvl edg (n + 1) i = some (i + 1) :=
  if_pos (crosses_iff_crossingAt.2 hc)

theorem scanPure_miss (hc : ¬ CrossingAt s h edg lvl (i + 1)) :
    scanPure s h lvl edg (n + 1) i = scanPure s h lvl edg n (i + 1) :=
  if_neg (mt crosses_iff_crossingAt.1 hc)

/-- The scan of `n` pairs from `i` on returns the first crossing among them. -/
theorem scanPure_eq_some :
    scanPure s h lvl edg n i = some r ↔
      i + 1 ≤ r ∧ r < i + n + 1 ∧ CrossingAt s h edg lvl r ∧
        ∀ q, i + 1 ≤ q → q < r → ¬ CrossingAt s h edg lvl q := by
  induction n generalizing i with
  | zero => exact ⟨nofun, fun ⟨hlo, hhi, _⟩ => absurd hhi (by omega)⟩
  | succ n ih =>
    by_cases hc : CrossingAt s h edg lvl (i + 1)
    · rw [scanPure_hit hc, Option.some.injEq]
      refine ⟨?_, fun ⟨hlo, _, _, hfirst⟩ => ?_⟩
      · rintro rfl
        exact ⟨Nat.le_refl _, by omega, hc, fun q hlo hhi => absurd hhi (by omega)⟩
      · by_contra hne
        exact hfirst (i + 1) (Nat.le_refl _) (by omega) hc
    · rw [scanPure_miss hc, ih]
      have hskip {q : Nat} (hq : CrossingAt s h edg lvl q) (hlo : i + 1 ≤ q) : i + 1 + 1 ≤ q := by
        by_contra hlt
        exact hc ((by omega : q = i + 1) ▸ hq)
      constructor
      · rintro ⟨hlo, hhi, hr, hfirst⟩
        exact ⟨by omega, by omega, hr, fun q hq hqr hcq => hfirst q (hskip hcq hq) hqr hcq⟩
      · rintro ⟨hlo, hhi, hr, hfirst⟩
        exact ⟨hskip hr hlo, by omega, hr, fun q hq => hfirst q (by omega)⟩

/-- The scan ends in NotFound exactly when none of its pairs crosses. -/
theorem scanPure_eq_none :
    scanPure s h lvl edg n i = none ↔ ∀ q, i + 1 ≤ q → q < i + n + 1 → ¬ CrossingAt s h edg lvl q := by
  induction n generalizing i with
  | zero => exact ⟨fun _ q hlo hhi => absurd hhi (by omega), fun _ => rfl⟩
  | succ n ih =>
    by_cases hc : CrossingAt s h edg lvl (i + 1)
    · rw [scanPure_hit hc]
      exact ⟨nofun, fun hno => absurd hc (hno (i + 1) (Nat.le_refl _) (by omega))⟩
    · rw [scanPure_miss hc, ih]
      refine ⟨fun hno q hlo hhi hq => ?_, fun hno q hlo hhi => hno q (by omega) (by omega)⟩
      by_cases heq : q = i + 1
      · exact hc (heq ▸ hq)
      · exact hno q (by omega) (by omega) hq

/-- The search looks at the pairs that end at `start + 1` to `HALF − 1` (41_trigger_search.md R126). -/
theorem searchPure_eq_some :
    searchPure s h start lvl edg = some r ↔
      start + 1 ≤ r ∧ r < s.params.half ∧ CrossingAt s h edg lvl r ∧
        ∀ q, start + 1 ≤ q → q < r → ¬ CrossingAt s h edg lvl q := by
  rw [searchPure, scanPure_eq_some]
  exact ⟨fun ⟨hlo, hhi, hr, hfirst⟩ => ⟨hlo, by omega, hr, hfirst⟩,
    fun ⟨hlo, hhi, hr, hfirst⟩ => ⟨hlo, by omega, hr, hfirst⟩⟩

theorem searchPure_eq_none :
    searchPure s h start lvl edg = none ↔ ∀ q, start + 1 ≤ q → q < s.params.half → ¬ CrossingAt s h edg lvl q := by
  rw [searchPure, scanPure_eq_none]
  exact ⟨fun hno q hlo hhi => hno q hlo (by omega), fun hno q hlo hhi => hno q hlo (by omega)⟩

/-- Settles O29: the two results of `searchPure`, with the crossing written out. -/
theorem searchFindsTheFirstCrossing : Obligations.SearchFindsTheFirstCrossing := fun _ _ _ _ _ =>
  ⟨fun _ => searchPure_eq_some, searchPure_eq_none⟩

/-- Settles O30: a result lies above the start, and no pair starts at HALF − 1. -/
theorem cursorPreventsRefind : Obligations.CursorPreventsRefind := by
  intro s h r lvl edg hr
  constructor
  · intro q hq
    obtain ⟨hlo, hhi, -⟩ := searchPure_eq_some.1 hq
    omega
  · intro hlast
    exact searchPure_eq_none.2 fun q hlo hhi => absurd hhi (by omega)

/-! ### Corner cases -/

theorem not_crossing_disabled {lvl a b : Nat} : ¬ Crossing .disabled lvl a b := id

theorem not_crossing_rising_zero {a b : Nat} : ¬ Crossing .rising 0 a b := fun hc => Nat.not_lt_zero _ hc.1

theorem not_crossing_falling_max {lvl a b : Nat} (ha : a ≤ lvl) : ¬ Crossing .falling lvl a b := fun hc =>
  Nat.not_lt.2 ha hc.1

theorem not_crossing_self {edg : Edge} {lvl a : Nat} : ¬ Crossing edg lvl a a := by
  cases edg with
  | disabled => exact id
  | rising => exact fun hc => Nat.not_lt.2 hc.2 hc.1
  | falling => exact fun hc => Nat.not_lt.2 hc.2 hc.1

/-- The cells of the pair that ends at an index of a half lie in that half. -/
theorem inHalf_of_lt_half (hp : s.params.valid) (hr : r < s.params.half) :
    inHalf s.params h (halfBase s.params h + (r - 1)) = true ∧ inHalf s.params h (halfBase s.params h + r) = true :=
  ⟨inHalf_base_add hp h (by omega), inHalf_base_add hp h hr⟩

theorem inHalf_lt (hk : inHalf s.params h i = true) (hp : s.params.valid) : i < s.params.L := by
  have hL := hp.two_half
  cases h <;> simp only [inHalf, decide_eq_true_eq] at hk <;> omega

/-- A search depends on the cells of its half alone (41_trigger_search.md R128). -/
theorem searchPure_congr (hp : s.params.valid) (hpt : t.params = s.params)
    (hcell : ∀ k, inHalf s.params h k = true → t.cell k = s.cell k) :
    searchPure t h start lvl edg = searchPure s h start lvl edg := by
  have hcross {q : Nat} (hq : q < s.params.half) : CrossingAt t h edg lvl q ↔ CrossingAt s h edg lvl q := by
    obtain ⟨hprev, hcur⟩ := inHalf_of_lt_half (h := h) hp hq
    rw [CrossingAt, CrossingAt, hpt, hcell _ hprev, hcell _ hcur]
  cases hs : searchPure s h start lvl edg with
  | none =>
    rw [searchPure_eq_none] at hs ⊢
    rw [hpt]
    exact fun q hlo hhi => (hcross hhi).not.2 (hs q hlo hhi)
  | some r =>
    obtain ⟨hlo, hhi, hr, hfirst⟩ := searchPure_eq_some.1 hs
    exact searchPure_eq_some.2
      ⟨hlo, hpt ▸ hhi, (hcross hhi).2 hr, fun q hq hqr => (hcross (by omega)).not.2 (hfirst q hq hqr)⟩

/-- Settles O31: in each corner case no pair of the half is a crossing. -/
theorem searchCornerCases : Obligations.SearchCornerCases := by
  intro s h start hp hcells
  have hnone {lvl : Nat} {edg : Edge} (hno : ∀ q, q < s.params.half → ¬ CrossingAt s h edg lvl q) :
      searchPure s h start lvl edg = none := searchPure_eq_none.2 fun q _ => hno q
  refine ⟨fun lvl => hnone fun q _ => not_crossing_disabled, hnone fun q _ => not_crossing_rising_zero,
    hnone fun q hq => not_crossing_falling_max ?_, fun lvl edg c hconst => hnone fun q hq => ?_,
    fun t lvl edg hpt hcell => searchPure_congr hp hpt hcell⟩
  · exact hcells _ (inHalf_lt (inHalf_of_lt_half hp hq).1 hp)
  · obtain ⟨hprev, hcur⟩ := inHalf_of_lt_half (h := h) hp hq
    rw [CrossingAt, hconst _ hprev, hconst _ hcur]
    exact not_crossing_self

end Sys2Proof.Machine
end

section
/-!
PROOFS. The invariant of the block (10_state.md R32): it holds at reset, every step keeps it, and from it no step faults.
-/

namespace Sys2Proof.Machine

variable {s t : State} {i : Instr} {e : Option Event} {h : Half}

/-! ### Reset -/

/-- The reset state meets the invariant: nothing is written, SEQ is Idle and nothing has been put out. -/
theorem inv_resetWith {p : Params} (hp : p.valid) : Inv (State.resetWith p) where
  valid := hp
  level := hp.resetLevel_le
  cursors h := by cases h <;> exact hp.half_pos
  wptr := hp.L_pos
  memWf := ⟨.nil, nofun⟩
  memRange := nofun
  cells k _ := powerOnCell_le (State.resetWith p) k
  frameLength := List.length_replicate
  seqOk := trivial
  outputs := nofun

/-- Settles O49: `inv_resetWith`, also for the set of `State.reset`. -/
theorem resetMeetsInvariant : Obligations.ResetMeetsInvariant := ⟨fun _ => inv_resetWith, inv_resetWith (by decide)⟩

/-! ### The capture registers -/

/-- The part of the invariant about the capture registers. -/
structure CaptureOk (s : State) : Prop where
  cursors : ∀ h, s.cursor h < s.params.half
  wptr : s.wptr < s.params.L
  memWf : s.mem.wf
  memRange : ∀ e ∈ s.mem, e.1 < 2 * s.params.L
  cells : ∀ k, k < s.params.L → s.cell k ≤ s.params.maxSample

theorem Inv.captureOk (hs : Inv s) : CaptureOk s := ⟨hs.cursors, hs.wptr, hs.memWf, hs.memRange, hs.cells⟩

/-- A sample in range keeps the capture registers in range. -/
theorem CaptureOk.stored (hp : s.params.valid) (hs : CaptureOk s) {v : Nat} (hv : v ≤ s.params.maxSample) :
    CaptureOk (s.stored v) where
  cursors h := by have := hs.cursors h; cases h <;> exact this
  wptr := nextIndex_lt hp _
  memWf := Memory.writeCell_wf _ _ hs.memWf
  memRange := Memory.writeCell_range hs.wptr hs.memRange
  cells k hk := by
    by_cases heq : k = s.wptr
    · rw [heq, cell_stored_same s (sample_lt hp hv)]
      exact hv
    · rw [cell_stored_other s v heq]
      exact hs.cells k hk

/-- A step that writes at most cursors and flags keeps the capture registers in range when the cursors stay so. -/
theorem CaptureOk.of_mem_eq (hs : CaptureOk s) (hp : t.params = s.params) (hn : t.powerOn = s.powerOn) (hm : t.mem = s.mem)
    (hw : t.wptr = s.wptr) (hc : ∀ h, t.cursor h < t.params.half) : CaptureOk t where
  cursors := hc
  wptr := by rw [hw, hp]; exact hs.wptr
  memWf := by rw [hm]; exact hs.memWf
  memRange := by rw [hm, hp]; exact hs.memRange
  cells k hk := by
    rw [cell_congr hm hp hn, hp]
    exact hs.cells k (hp ▸ hk)

theorem turns_captureOk (hp : s.params.valid) (hs : CaptureOk s) (ht : Turns s t) : CaptureOk t := by
  obtain ⟨-, -, -, hw, hm, hpar, hn, -⟩ := turns_keep ht
  refine hs.of_mem_eq hpar hn hm hw fun h => ?_
  rw [hpar]
  cases ht with
  | commit h' =>
    by_cases heq : h = h'
    · subst heq
      exact (putCursor_cursor_same s h _).symm ▸ cursorAfter_lt hp _
    · exact (putCursor_cursor_other s h' h _ heq).symm ▸ hs.cursors h
  | _ => have := hs.cursors h; cases h <;> simpa using this

theorem captureStep_captureOk (hp : s.params.valid) (hs : CaptureOk s) (hkeep : t.params = s.params ∧ t.powerOn = s.powerOn)
    (hw : ∀ w, e = some (.sample w) → w.toNat ≤ s.params.maxSample) (h : CaptureStep s e t) : CaptureOk t := by
  cases h with
  | kept _ _ hk =>
    refine hs.of_mem_eq hkeep.1 hkeep.2 hk.mem hk.wptr fun h => ?_
    rw [hk.cursor, hkeep.1]
    exact hs.cursors h
  | sample w => exact hs.stored hp (hw w rfl)
  | start => exact ⟨fun h => by cases h <;> exact hp.half_pos, hp.L_pos, hs.memWf, hs.memRange, hs.cells⟩
  | turn _ _ _ ht => exact turns_captureOk hp hs ht

/-! ### The positions of SEQ -/

theorem seqOk_of_idle (hph : s.seq.phase = .idle) : SeqOk s := by unfold SeqOk; rw [hph]; trivial

theorem seqOk_of_respond (hph : s.seq.phase = .respond) : SeqOk s := by unfold SeqOk; rw [hph]; trivial

theorem seqOk_test (hph : s.seq.phase = .test h) : SeqOk s ↔ s.run = .running := by unfold SeqOk; rw [hph]

theorem seqOk_snap (hph : s.seq.phase = .snap h) : SeqOk s ↔ s.run = .running := by unfold SeqOk; rw [hph]

theorem seqOk_search (hph : s.seq.phase = .search h) :
    SeqOk s ↔
      s.run = .running ∧ s.seq.i + 1 < s.params.half ∧ s.seq.edg ≠ .disabled ∧ s.seq.lvl ≤ s.params.maxSample ∧
        ∀ v, s.seq.prev = some v → v ≤ s.params.maxSample := by
  unfold SeqOk; rw [hph]

theorem seqOk_map (hph : s.seq.phase = .map h) :
    SeqOk s ↔
      s.run = .running ∧ s.seq.col < s.params.W ∧
        (∃ r, s.seq.res = some r ∧ 1 ≤ r ∧ r < s.params.half ∧ s.seq.T = halfBase s.params h + r) ∧
        ∀ c y, c < s.seq.col → s.frame[c]? = some y → y < s.params.waveH := by
  unfold SeqOk; rw [hph]

theorem seqOk_emit (hph : s.seq.phase = .emit h) :
    SeqOk s ↔
      s.run = .running ∧ (∃ r, s.seq.res = some r ∧ 1 ≤ r ∧ r < s.params.half) ∧
        ∀ y ∈ s.frame, y < s.params.waveH := by
  unfold SeqOk; rw [hph]

theorem seqOk_commit (hph : s.seq.phase = .commit h) :
    SeqOk s ↔ s.run = .running ∧ ∀ r, s.seq.res = some r → 1 ≤ r ∧ r < s.params.half := by
  unfold SeqOk; rw [hph]

theorem seqOk_congr (hs : SeqOk s) (hseq : t.seq = s.seq) (hr : t.run = s.run) (hp : t.params = s.params)
    (hf : t.frame = s.frame) : SeqOk t := by
  unfold SeqOk at hs ⊢
  rwa [hseq, hr, hp, hf]

/-- Inside HANDLE the block runs (10_state.md R32). -/
theorem SeqOk.running (hs : SeqOk s) (hh : handling h s) : s.run = .running := by
  rcases hh with hph | hph | hph | hph | hph | hph
  · exact (seqOk_test hph).1 hs
  · exact (seqOk_snap hph).1 hs
  · exact ((seqOk_search hph).1 hs).1
  · exact ((seqOk_map hph).1 hs).1
  · exact ((seqOk_emit hph).1 hs).1
  · exact ((seqOk_commit hph).1 hs).1

theorem execs_frame (h : Execs s i t) : t.frame = s.frame := by cases h <;> rfl

/-- An operation leaves SEQ and RUN alone, or SEQ Idle, or begins a PROCESS. -/
theorem execs_seqOk (hs : SeqOk s) (h : Execs s i t) : SeqOk t := by
  cases h with
  | startArmed hi => exact seqOk_of_idle hi
  | stop hi => exact seqOk_of_idle hi
  | processStopped => exact seqOk_of_respond rfl
  | processRunning _ hr => exact (seqOk_test rfl).2 hr
  | _ => exact seqOk_congr hs rfl rfl rfl rfl

theorem seqOk_afterHalf (hph : s.seq.phase = afterHalf h) (hr : s.run = .running) : SeqOk s := by
  cases h with
  | h0 => exact (seqOk_test hph).2 hr
  | h1 => exact seqOk_of_respond hph

theorem seqOk_enterPair (hr : s.run = .running) (hlvl : s.seq.lvl ≤ s.params.maxSample) (i : Nat) :
    SeqOk (enterPair h i s) := by
  by_cases hi : i + 1 < s.params.half ∧ s.seq.edg ≠ .disabled
  · rw [enterPair_next hi]
    exact (seqOk_search rfl).2 ⟨hr, hi.1, hi.2, hlvl, nofun⟩
  · rw [enterPair_done hi]
    exact (seqOk_commit rfl).2 ⟨hr, nofun⟩

/-- The columns written so far are in range after one more (42_window_mapper.md R141). -/
theorem column_lt {f : List Nat} {col y n : Nat} (hf : ∀ c y, c < col → f[c]? = some y → y < n) (hy : y < n) {c z : Nat}
    (hc : c < col + 1) (hz : (f.set col y)[c]? = some z) : z < n := by
  by_cases heq : c = col
  · subst heq
    rw [List.getElem?_set_self'] at hz
    obtain ⟨_, -, rfl⟩ := Option.map_eq_some_iff.1 hz
    exact hy
  · rw [List.getElem?_set_ne (Ne.symm heq)] at hz
    exact hf c z (by omega) hz

theorem width_pos {p : Params} (hp : p.valid) : 1 ≤ p.W := by
  obtain ⟨-, -, hW, -⟩ := hp
  exact hW

theorem turns_seqOk (hinv : Inv s) (ht : Turns s t) : SeqOk t := by
  have hs := hinv.seqOk
  cases ht with
  | idle => exact hs
  | testSet h hph => exact (seqOk_snap rfl).2 (by simpa using (seqOk_test hph).1 hs)
  | testClear h hph => exact seqOk_afterHalf rfl (by simpa using (seqOk_test hph).1 hs)
  | snap h hph => exact seqOk_enterPair (s := s.snapped) ((seqOk_snap hph).1 hs) hinv.level _
  | readPrev h hph _ hlt =>
    obtain ⟨hr, hi, he, hlvl, -⟩ := (seqOk_search hph).1 hs
    refine (seqOk_search (by exact hph)).2 ⟨hr, hi, he, hlvl, ?_⟩
    rintro _ ⟨⟩
    exact hinv.cells _ hlt
  | hit h hph =>
    obtain ⟨hr, hi, -⟩ := (seqOk_search hph).1 hs
    exact (seqOk_map rfl).2
      ⟨hr, width_pos hinv.valid, ⟨_, rfl, Nat.le_add_left _ _, hi, rfl⟩, fun c _ hc => absurd hc (Nat.not_lt_zero c)⟩
  | miss h hph =>
    obtain ⟨hr, -, -, hlvl, -⟩ := (seqOk_search hph).1 hs
    exact seqOk_enterPair hr hlvl _
  | column h hph _ hcol =>
    obtain ⟨hr, -, hres, hf⟩ := (seqOk_map hph).1 hs
    exact (seqOk_map (by exact hph)).2 ⟨hr, hcol, hres, fun c z => column_lt hf (yOf_lt hinv.valid _)⟩
  | lastColumn h hph _ hcol =>
    obtain ⟨hr, -, ⟨r, hres, h1, hhalf, -⟩, hf⟩ := (seqOk_map hph).1 hs
    refine (seqOk_emit rfl).2 ⟨hr, ⟨r, hres, h1, hhalf⟩, fun z hz => ?_⟩
    obtain ⟨c, hc⟩ := List.mem_iff_getElem?.1 hz
    obtain ⟨hlt, -⟩ := List.getElem?_eq_some_iff.1 hc
    rw [List.length_set, hinv.frameLength] at hlt
    exact column_lt hf (yOf_lt hinv.valid _) (by omega) hc
  | emit h hph =>
    obtain ⟨hr, ⟨r, hres, h1, hhalf⟩, -⟩ := (seqOk_emit hph).1 hs
    refine (seqOk_commit rfl).2 ⟨hr, fun r' hr' => ?_⟩
    cases hres.symm.trans hr'
    exact ⟨h1, hhalf⟩
  | commit h hph => exact seqOk_afterHalf rfl (by simpa using ((seqOk_commit hph).1 hs).1)
  | respond => exact seqOk_of_idle rfl

/-! ### Every step -/

theorem fires_frame_length (h : Fires s e t) : t.frame.length = s.frame.length := by
  cases h with
  | arm => rfl
  | reserved => rfl
  | sample _ _ _ hx => rw [execs_frame hx]
  | command _ _ _ _ _ _ hx => rw [execs_frame hx]
  | turn _ _ _ ht => exact turns_frame_length ht

theorem fires_level (hs : s.trigLevel ≤ s.params.maxSample) (h : Fires s e t) : t.trigLevel ≤ s.params.maxSample := by
  have hexec {i : Instr} (hx : Execs s i t) : t.trigLevel ≤ s.params.maxSample := by
    rcases execs_trig hx with ⟨hl, -⟩ | ⟨level, _, -, hl, -⟩
    · rwa [hl]
    · rw [hl]
      exact clampLevel_le _ _
  cases h with
  | arm => exact hs
  | reserved => exact hs
  | sample _ _ _ hx => exact hexec hx
  | command _ _ _ _ _ _ hx => exact hexec hx
  | turn _ _ _ ht =>
    obtain ⟨-, hlevel, -⟩ := turns_keep ht
    rwa [hlevel]

theorem fires_seqOk (hinv : Inv s) (h : Fires s e t) : SeqOk t := by
  cases h with
  | arm => exact hinv.seqOk
  | reserved => exact hinv.seqOk
  | sample _ _ _ hx => exact execs_seqOk hinv.seqOk hx
  | command _ _ _ _ _ _ hx => exact execs_seqOk hinv.seqOk hx
  | turn _ _ _ ht => exact turns_seqOk hinv ht

theorem inv_frame_ok (hinv : Inv s) (hph : s.seq.phase = .emit h) : OutputOk s.params (.frame s.frame) := by
  obtain ⟨-, -, hframe⟩ := (seqOk_emit hph).1 hinv.seqOk
  exact ⟨hinv.frameLength, hframe⟩

/-- A response put out is a `responseWord`; a frame put out is FRAME at an emit position. -/
theorem fires_outputs (hinv : Inv s) (h : Fires s e t) : ∀ o ∈ t.out, OutputOk s.params o := by
  rcases fires_out h with hout | ⟨st, v, hout⟩ | ⟨-, hout, h, hph, -⟩
  · rw [hout]
    exact hinv.outputs
  · rw [hout, List.forall_mem_append, List.forall_mem_singleton]
    exact ⟨hinv.outputs, outputOk_response _ st v⟩
  · rw [hout, List.forall_mem_append, List.forall_mem_singleton]
    exact ⟨hinv.outputs, inv_frame_ok hinv hph⟩

theorem fires_sample_le {w : SampleWord} (h : Fires s (some (.sample w)) t) : w.toNat ≤ s.params.maxSample := by
  cases h with
  | sample _ hw => exact Params.lt_pow_iff_le_maxSample.1 hw
  | turn _ he => rcases he with he | he <;> cases he

/-- Every delivered event keeps the invariant, part by part. -/
theorem fires_inv (hinv : Inv s) (h : Fires s e t) : Inv t := by
  have hkeep := fires_keep h
  have hp := hkeep.1
  have hcap : CaptureOk t :=
    captureStep_captureOk hinv.valid hinv.captureOk hkeep (fun w he => fires_sample_le (he ▸ h)) (fires_capture h)
  exact
    { valid := hp ▸ hinv.valid
      level := hp ▸ fires_level hinv.level h
      cursors := hcap.cursors
      wptr := hcap.wptr
      memWf := hcap.memWf
      memRange := hcap.memRange
      cells := hcap.cells
      frameLength := by rw [hp, fires_frame_length h, hinv.frameLength]
      seqOk := fires_seqOk hinv h
      outputs := hp ▸ fires_outputs hinv h }

/-- The invariant does not speak of the schedule. -/
theorem Inv.withInbox (h : Inv s) (rest : List Event) : Inv { s with inbox := rest } :=
  ⟨h.valid, h.level, h.cursors, h.wptr, h.memWf, h.memRange, h.cells, h.frameLength, h.seqOk, h.outputs⟩

theorem Inv.popped (h : Inv s) : Inv s.popped := h.withInbox _

/-- Settles O50: a step is a delivered event. -/
theorem stepKeepsInvariant : Obligations.StepKeepsInvariant := fun _ _ hinv hs => fires_inv hinv.popped (step_fires hs).2

/-! ### No fault -/

/-- Every position of SEQ has a next step (44_capture_driver.md R178). -/
theorem processStep_next (hinv : Inv s) : ∃ t, processStep s = .next t := by
  cases hph : s.seq.phase with
  | idle => exact ⟨_, processStep_idle hph⟩
  | test h =>
    rw [processStep_test hph]
    cases hf : s.flag h
    · exact ⟨_, stepTest_clear hf⟩
    · exact ⟨_, stepTest_set hf⟩
  | snap h => exact ⟨_, processStep_snap_eq hph⟩
  | search h =>
    obtain ⟨-, hi, -⟩ := (seqOk_search hph).1 hinv.seqOk
    rw [processStep_search hph]
    cases hprev : s.seq.prev with
    | none => exact ⟨_, stepSearch_first hprev (halfBase_add_lt hinv.valid h (by omega))⟩
    | some v =>
      rw [stepSearch_second hprev (halfBase_add_lt hinv.valid h hi)]
      split <;> exact ⟨_, rfl⟩
  | map h => exact ⟨_, (processStep_map hph).trans (stepMap_read hinv.valid)⟩
  | emit h => exact ⟨_, processStep_emit hph⟩
  | commit h => exact ⟨_, processStep_commit hph⟩
  | respond => exact ⟨_, processStep_respond hph⟩

theorem exec_pSample_next (hw : s.wptr < s.params.L) (v : Nat) : ∃ t, exec (.pSample v) s = .next t := by
  cases hr : s.run with
  | stopped => exact ⟨s, exec_pSample_stopped hr⟩
  | running => exact ⟨_, exec_pSample_running hr hw⟩

/-- Between commands every operation completes. -/
theorem exec_next_of_idle (hw : s.wptr < s.params.L) (hi : s.seq.phase = .idle) (i : Instr) : ∃ t, exec i s = .next t := by
  cases i with
  | start =>
    cases hr : s.run with
    | running => exact ⟨_, execStart_of_running hi hr⟩
    | stopped =>
      rw [exec, execStart_of_stopped hi hr]
      split <;> exact ⟨_, rfl⟩
  | stop => exact ⟨_, whenIdle_of_idle hi _⟩
  | isRunning => exact ⟨_, execIsRunning_of_idle hi⟩
  | process =>
    cases hr : s.run with
    | running => exact ⟨_, execProcess_of_running hi hr⟩
    | stopped => exact ⟨_, execProcess_of_stopped hi hr⟩
  | setTrigger level edge => exact ⟨_, rfl⟩
  | getTriggerLevel => exact ⟨_, whenIdle_of_idle hi _⟩
  | getTriggerEdge => exact ⟨_, whenIdle_of_idle hi _⟩
  | pSample v => exact exec_pSample_next hw v

/-- During a PROCESS an operation completes or is refused (44_capture_driver.md R179). -/
theorem exec_next_or_refused (hw : s.wptr < s.params.L) (hb : s.seq.phase ≠ .idle) (i : Instr) :
    (∃ t, exec i s = .next t) ∨ exec i s = .refused .commandDuringProcess := by
  cases i with
  | setTrigger level edge => exact .inl ⟨_, rfl⟩
  | pSample v => exact .inl (exec_pSample_next hw v)
  | _ => exact .inr (whenIdle_of_busy hb _)

theorem takeCommand_next_or_refused (hw : s.wptr < s.params.L) (w : Word) :
    (∃ t, takeCommand w s = .next t) ∨ takeCommand w s = .refused .commandDuringProcess ∧ s.seq.phase ≠ .idle := by
  cases hd : decodeCommand w with
  | reserved r => exact .inl ⟨_, takeCommand_reserved hd⟩
  | instr i =>
    rw [takeCommand_instr hd]
    by_cases hi : s.seq.phase = .idle
    · exact .inl (exec_next_of_idle hw hi i)
    · exact (exec_next_or_refused hw hi i).imp_right fun h => ⟨h, hi⟩

theorem deliver_command_next_or_refused (hw : s.wptr < s.params.L) (a : Agent) (w : Word) :
    (∃ t, deliver (.command a w) s = .next t) ∨
      deliver (.command a w) s = .refused .commandDuringProcess ∧ s.seq.phase ≠ .idle := by
  cases a with
  | controller => exact takeCommand_next_or_refused hw w
  | consumer =>
    by_cases hi : s.seq.phase = .idle
    · rw [deliver, whenIdle_of_idle hi]
      exact takeCommand_next_or_refused hw w
    · exact .inr ⟨whenIdle_of_busy hi _, hi⟩

theorem takeSample_next_or_refused (hw : s.wptr < s.params.L) (w : SampleWord) :
    (∃ t, takeSample w s = .next t) ∨
      takeSample w s = .refused .sampleWiderThanPort ∧ 2 ^ s.params.adcBits ≤ w.toNat := by
  by_cases hlt : w.toNat < 2 ^ s.params.adcBits
  · rw [takeSample_instr (decodeSample_eq_instr.2 ⟨rfl, hlt⟩)]
    exact .inl (exec_pSample_next hw _)
  · refine .inr ⟨?_, Nat.le_of_not_lt hlt⟩
    rw [takeSample, decode, decodeSample, if_neg hlt]

/-- Settles O51: event by event; the two refusals are those of `takeCommand` and `takeSample`. -/
theorem noStepFaults : Obligations.NoStepFaults := by
  intro s hinv
  have hp := hinv.valid
  cases hib : s.inbox with
  | nil =>
    rw [step_nil hp hib]
    exact .inl (processStep_next hinv)
  | cons e rest =>
    rw [step_cons hp hib]
    cases e with
    | arm b => exact .inl ⟨_, rfl⟩
    | turn => exact .inl (processStep_next (hinv.withInbox rest))
    | sample w =>
      rcases takeSample_next_or_refused (s := { s with inbox := rest }) hinv.wptr w with hn | ⟨hr, hw⟩
      · exact .inl hn
      · exact .inr (.inr ⟨hr, w, rest, rfl, hw⟩)
    | command a w =>
      rcases deliver_command_next_or_refused (s := { s with inbox := rest }) hinv.wptr a w with hn | ⟨hr, hb⟩
      · exact .inl hn
      · exact .inr (.inl ⟨hr, hb, w, a, rest, hib⟩)

end Sys2Proof.Machine
end

section
/-!
PROOFS. The bound of a PROCESS on its own atomic steps (44_capture_driver.md R178): every turn takes at least one off
`stepsLeft`, and no other event adds to it.
-/

namespace Sys2Proof.Machine

variable {s t u : State} {i : Instr} {e : Option Event} {h : Half}

/-! ### `stepsLeft` by position -/

theorem stepsLeft_idle (hph : s.seq.phase = .idle) : stepsLeft s = 0 := by unfold stepsLeft; rw [hph]

theorem stepsLeft_respond (hph : s.seq.phase = .respond) : stepsLeft s = 1 := by unfold stepsLeft; rw [hph]

theorem stepsLeft_test (hph : s.seq.phase = .test h) : stepsLeft s = stepsAfter s.params h + handleSteps s.params := by
  unfold stepsLeft; rw [hph]

theorem stepsLeft_snap (hph : s.seq.phase = .snap h) :
    stepsLeft s = stepsAfter s.params h + (2 * (s.params.half - 1) + s.params.W + 3) := by
  unfold stepsLeft; rw [hph]

theorem stepsLeft_search_none (hph : s.seq.phase = .search h) (hprev : s.seq.prev = none) :
    stepsLeft s = stepsAfter s.params h + s.params.W + 2 + 2 * (s.params.half - 1 - s.seq.i) := by
  unfold stepsLeft; rw [hph]; simp [hprev]

theorem stepsLeft_search_some {v : Nat} (hph : s.seq.phase = .search h) (hprev : s.seq.prev = some v) :
    stepsLeft s = stepsAfter s.params h + s.params.W + 2 + (2 * (s.params.half - 1 - s.seq.i) - 1) := by
  unfold stepsLeft; rw [hph]; simp [hprev]

theorem stepsLeft_map (hph : s.seq.phase = .map h) :
    stepsLeft s = stepsAfter s.params h + (s.params.W - s.seq.col) + 2 := by
  unfold stepsLeft; rw [hph]

theorem stepsLeft_emit (hph : s.seq.phase = .emit h) : stepsLeft s = stepsAfter s.params h + 2 := by
  unfold stepsLeft; rw [hph]

theorem stepsLeft_commit (hph : s.seq.phase = .commit h) : stepsLeft s = stepsAfter s.params h + 1 := by
  unfold stepsLeft; rw [hph]

theorem stepsLeft_congr (hseq : t.seq = s.seq) (hp : t.params = s.params) : stepsLeft t = stepsLeft s := by
  unfold stepsLeft
  rw [hseq, hp]

theorem stepsAfter_pos (p : Params) (h : Half) : 1 ≤ stepsAfter p h := by
  cases h <;> simp [stepsAfter]

/-- What follows a half is what `stepsAfter` counts. -/
theorem stepsLeft_afterHalf (hph : s.seq.phase = afterHalf h) : stepsLeft s = stepsAfter s.params h := by
  cases h with
  | h0 => rw [stepsLeft_test hph, stepsAfter, stepsAfter, Nat.add_comm]
  | h1 => rw [stepsLeft_respond hph, stepsAfter]

/-- A scan that comes to pair `n` has the reads of the pairs from `n` on before it, or ends. -/
theorem stepsLeft_enterPair (s : State) (h : Half) (n : Nat) :
    stepsLeft (enterPair h n s) ≤ stepsAfter s.params h + s.params.W + 2 + 2 * (s.params.half - 1 - n) := by
  by_cases hn : n + 1 < s.params.half ∧ s.seq.edg ≠ .disabled
  · rw [enterPair_next hn]
    exact Nat.le_of_eq (stepsLeft_search_none rfl rfl)
  · rw [enterPair_done hn, stepsLeft_commit rfl, putSeq_params]
    omega

theorem stepsLeft_pos (hb : s.seq.phase ≠ .idle) : 1 ≤ stepsLeft s := by
  cases hph : s.seq.phase with
  | idle => exact absurd hph hb
  | respond => exact Nat.le_of_eq (stepsLeft_respond hph).symm
  | test h => rw [stepsLeft_test hph]; exact Nat.le_add_right_of_le (stepsAfter_pos _ h)
  | snap h => rw [stepsLeft_snap hph]; omega
  | search h =>
    cases hprev : s.seq.prev with
    | none => rw [stepsLeft_search_none hph hprev]; omega
    | some v => rw [stepsLeft_search_some hph hprev]; omega
  | map h => rw [stepsLeft_map hph]; omega
  | emit h => rw [stepsLeft_emit hph]; omega
  | commit h => rw [stepsLeft_commit hph]; omega

/-! ### Turns take from it -/

theorem turns_stepsLeft (hinv : Inv s) (hb : s.seq.phase ≠ .idle) (ht : Turns s t) : stepsLeft t < stepsLeft s := by
  have hs := hinv.seqOk
  cases ht with
  | idle hph => exact absurd hph hb
  | testSet h hph => rw [stepsLeft_test hph, stepsLeft_snap rfl, goto_params, putFlag_params, handleSteps]; omega
  | testClear h hph =>
    rw [stepsLeft_test hph, stepsLeft_afterHalf rfl, goto_params, putFlag_params, handleSteps]; omega
  | snap h hph =>
    have hle := stepsLeft_enterPair s.snapped h (s.cursor h)
    rw [putSeq_params] at hle
    rw [stepsLeft_snap hph]
    exact Nat.lt_of_le_of_lt hle (by omega)
  | readPrev h hph hprev =>
    obtain ⟨-, hi, -⟩ := (seqOk_search hph).1 hs
    have hnext := stepsLeft_search_some (s := s.putSeq { s.seq with prev := some (s.cell (halfBase s.params h + s.seq.i)) })
      hph rfl
    rw [stepsLeft_search_none hph hprev, hnext]
    simp only [putSeq_params, putSeq_seq]
    omega
  | hit h hph v hprev =>
    obtain ⟨-, hi, -⟩ := (seqOk_search hph).1 hs
    rw [stepsLeft_search_some hph hprev, stepsLeft_map rfl]
    simp only [enterMap_params, enterMap_seq]
    omega
  | miss h hph v hprev =>
    obtain ⟨-, hi, -⟩ := (seqOk_search hph).1 hs
    have hle := stepsLeft_enterPair s h (s.seq.i + 1)
    rw [stepsLeft_search_some hph hprev]
    omega
  | column h hph _ hcol =>
    rw [stepsLeft_map hph, stepsLeft_map (by exact hph)]
    show stepsAfter s.params h + (s.params.W - (s.seq.col + 1)) + 2 < _
    omega
  | lastColumn h hph _ hcol =>
    obtain ⟨-, hlt, -⟩ := (seqOk_map hph).1 hs
    rw [stepsLeft_map hph, stepsLeft_emit rfl]
    show stepsAfter s.params h + 2 < _
    omega
  | emit h hph =>
    rw [stepsLeft_emit hph, stepsLeft_commit rfl, goto_params, emitFrame_params]; omega
  | commit h hph => rw [stepsLeft_commit hph, stepsLeft_afterHalf rfl, goto_params, putCursor_params]; omega
  | respond hph => rw [stepsLeft_respond hph, stepsLeft_idle rfl]; omega

/-- 1 when the event is a turn of the PROCESS in progress (`none`: nothing was scheduled). -/
def ownTurn (e : Option Event) : Nat := if e = none ∨ e = some .turn then 1 else 0

theorem turnsIn_succ_eq (n : Nat) (l : List Event) : turnsIn (n + 1) l = turnsIn n l.tail + ownTurn l.head? :=
  turnsIn_succ n l

/-- A step of a PROCESS in progress takes a turn's share from `stepsLeft` and leaves it alone otherwise. -/
theorem step_stepsLeft (hinv : Inv s) (hb : s.seq.phase ≠ .idle) (hs : step s = .next t) :
    stepsLeft t + ownTurn s.inbox.head? ≤ stepsLeft s := by
  have hf := (step_fires hs).2
  have hkeep := step_keep hs
  have hother (hseq : t.seq = s.seq) (he : ¬ (s.inbox.head? = none ∨ s.inbox.head? = some .turn)) :
      stepsLeft t + ownTurn s.inbox.head? ≤ stepsLeft s := by
    rw [ownTurn, if_neg he, stepsLeft_congr hseq hkeep.1, Nat.add_zero]
  generalize s.inbox.head? = e at hf hother ⊢
  cases hf with
  | arm => exact hother rfl (by simp)
  | reserved => exact hother rfl (by simp)
  | sample _ _ _ hx => exact hother (execs_keep_of_busy hx hb).1 (by simp)
  | command _ _ _ _ _ _ hx => exact hother (execs_keep_of_busy hx hb).1 (by simp)
  | turn _ he _ ht =>
    rw [ownTurn, if_pos he]
    exact turns_stepsLeft (s := s.popped) hinv.popped hb ht

theorem step_inbox (hs : step s = .next t) : t.inbox = s.inbox.tail := fires_inbox (step_fires hs).2

theorem run_of_step (hs : step s = .next u) (n : Nat) : run (n + 1) s = run n u := by rw [run, hs]

/-- The first step of a run. -/
theorem run_succ_first {n : Nat} (hrun : run (n + 1) s = .next t) : ∃ u, step s = .next u ∧ run n u = .next t := by
  rw [run] at hrun
  split at hrun
  · exact ⟨_, ‹_›, hrun⟩
  · cases hrun
  · cases hrun

/-- As long as a PROCESS lasts, its own turns come off `stepsLeft`. -/
theorem run_stepsLeft {n : Nat} (hinv : Inv s) (hrun : run n s = .next t)
    (hb : ∀ m u, m ≤ n → run m s = .next u → u.seq.phase ≠ .idle) :
    stepsLeft t + turnsIn n s.inbox ≤ stepsLeft s := by
  induction n generalizing s with
  | zero => cases hrun; exact Nat.le_refl _
  | succ n ih =>
    have hbs : s.seq.phase ≠ .idle := hb 0 s (Nat.zero_le _) rfl
    obtain ⟨u, hs, hrest⟩ := run_succ_first hrun
    have hleft := ih (stepKeepsInvariant s u hinv hs) hrest
      fun m v hm hv => hb (m + 1) v (Nat.succ_le_succ hm) ((run_of_step hs m).trans hv)
    have hfirst := step_stepsLeft hinv hbs hs
    rw [turnsIn_succ_eq, ← step_inbox hs]
    omega

/-! ### The whole command -/

/-- PROCESS begins in a state that meets the invariant, within the bound of R178. -/
theorem execProcess_inv (hinv : Inv s) (h : exec .process s = .next t) : Inv t :=
  fires_inv hinv (.command .controller 0x40000000 nofun .process (by decide) t (exec_execs h))

theorem execProcess_stepsLeft (h : exec .process s = .next t) : stepsLeft t ≤ 1 + 2 * handleSteps s.params := by
  cases exec_execs h with
  | processStopped => rw [stepsLeft_respond rfl]; omega
  | processRunning => rw [stepsLeft_test rfl, stepsAfter, goto_params]; omega

/-- Settles O35: the turns taken come off `stepsLeft`, which is positive while the PROCESS lasts; every turn moves SEQ, as
`stepsLeft` depends on SEQ alone. -/
theorem processEndsWithinItsBound : Obligations.ProcessEndsWithinItsBound := by
  constructor
  · intro s s0 t n hinv hx hrun hb
    have hstart := execProcess_stepsLeft hx
    have hturns := run_stepsLeft (execProcess_inv hinv hx) hrun hb
    have hleft := stepsLeft_pos (hb n t (Nat.le_refl _) hrun)
    rw [handleSteps] at hstart
    omega
  · intro s hinv hb
    obtain ⟨t, ht⟩ := processStep_next hinv
    have hturn := processStep_turns ht
    have hlt := turns_stepsLeft hinv hb hturn
    obtain ⟨-, -, -, -, -, hp, -⟩ := turns_keep hturn
    exact ⟨t, ht, fun hseq => Nat.ne_of_lt hlt (stepsLeft_congr hseq hp)⟩

end Sys2Proof.Machine
end

section
/-!
PROOFS. A PROCESS with a quiet environment (44_capture_driver.md R174): it ends, within its bound, in the state that
`processAtomic` gives. The states along it differ from one fixed block in FRAME and SEQ only.
-/

namespace Sys2Proof.Machine

variable {s t u b : State} {h : Half} {q : Sequencer} {f : List Nat}

/-! ### Quiet runs -/

/-- `t` is reached from `s` within the atomic steps that `stepsLeft` counts. -/
def QuietRun (s t : State) : Prop := ∃ n, n + stepsLeft t ≤ stepsLeft s ∧ run n s = .next t

theorem QuietRun.refl (s : State) : QuietRun s s := ⟨0, by omega, rfl⟩

theorem QuietRun.trans (hst : QuietRun s t) (htu : QuietRun t u) : QuietRun s u := by
  obtain ⟨m, hm, hrun⟩ := hst
  obtain ⟨n, hn, hrun'⟩ := htu
  exact ⟨m + n, by omega, (run_add hrun).trans hrun'⟩

/-- With nothing scheduled a PROCESS in progress takes its next step. -/
theorem QuietRun.turn (hinv : Inv s) (hib : s.inbox = []) (hb : s.seq.phase ≠ .idle) (hs : processStep s = .next t) :
    QuietRun s t := by
  have hlt := turns_stepsLeft hinv hb (processStep_turns hs)
  exact ⟨1, by omega, run_one_of_quiet hinv.valid hib hs⟩

theorem run_inv {n : Nat} (hinv : Inv s) (hrun : run n s = .next t) : Inv t := by
  induction n generalizing t with
  | zero => cases hrun; exact hinv
  | succ n ih =>
    obtain ⟨u, hu, hs⟩ := run_succ hrun
    exact stepKeepsInvariant u t (ih hu) hs

theorem QuietRun.inv (hinv : Inv s) (hq : QuietRun s t) : Inv t := by
  obtain ⟨n, -, hrun⟩ := hq
  exact run_inv hinv hrun

/-! ### The block apart from FRAME and SEQ -/

/-- The block `b` with other work values: FRAME and SEQ. -/
abbrev State.working (b : State) (f : List Nat) (q : Sequencer) : State := { b with frame := f, seq := q }

theorem cell_working (b : State) (f : List Nat) (q : Sequencer) (k : Nat) : (b.working f q).cell k = b.cell k := rfl

/-! ### The scan -/

/-- SEQ at the end of a scan with result `res` (41_trigger_search.md R121, 42_window_mapper.md R137). -/
def ScanEnds (p : Params) (h : Half) (res : Option Nat) (q : Sequencer) : Prop :=
  q.res = res ∧
    match res with
    | some r => q.phase = .map h ∧ q.T = halfBase p h + r ∧ q.col = 0
    | none => q.phase = .commit h

theorem scanPure_disabled (s : State) (h : Half) (lvl n i : Nat) : scanPure s h lvl .disabled n i = none :=
  scanPure_eq_none.2 fun _ _ _ => not_crossing_disabled

/-- SEQ at pair `i` of the scan, with `prev` read or not yet (41_trigger_search.md R121). -/
abbrev Sequencer.atPair (q : Sequencer) (h : Half) (i : Nat) (prev : Option Nat) : Sequencer :=
  { q with phase := .search h, i := i, prev := prev }

section

variable {i : Nat}

theorem enterPair_putSeq_next (hi : i + 1 < b.params.half) (he : q.edg ≠ .disabled) :
    enterPair h i (b.putSeq q) = b.putSeq (q.atPair h i none) := if_pos ⟨hi, he⟩

theorem enterPair_putSeq_done (hi : ¬ (i + 1 < b.params.half ∧ q.edg ≠ .disabled)) :
    enterPair h i (b.putSeq q) = b.putSeq { q with phase := .commit h, prev := none, res := none } := if_neg hi

theorem processStep_atPair_none (hp : b.params.valid) (hi : i + 1 < b.params.half) :
    processStep (b.putSeq (q.atPair h i none)) =
      .next (b.putSeq (q.atPair h i (some (b.cell (halfBase b.params h + i))))) :=
  stepSearch_first (s := b.putSeq (q.atPair h i none)) rfl (halfBase_add_lt hp h (Nat.lt_of_succ_lt hi))

theorem processStep_atPair_some (hp : b.params.valid) (hi : i + 1 < b.params.half) (v : Nat) :
    processStep (b.putSeq (q.atPair h i (some v))) =
      if crosses q.edg q.lvl v (b.cell (halfBase b.params h + i + 1)) then
        .next (enterMap h (i + 1) (b.putSeq (q.atPair h i (some v))))
      else .next (enterPair h (i + 1) (b.putSeq (q.atPair h i (some v)))) :=
  stepSearch_second (s := b.putSeq (q.atPair h i (some v))) rfl (halfBase_add_lt hp h hi)

/-- From pair `i` on, the scan of a block that nobody writes ends as the pure scan does. -/
theorem quiet_scan {n : Nat} (hn : n = b.params.half - 1 - i) (hib : b.inbox = []) (hinv : Inv (enterPair h i (b.putSeq q))) :
    ∃ q', QuietRun (enterPair h i (b.putSeq q)) (b.putSeq q') ∧ ScanEnds b.params h (scanPure b h q.lvl q.edg n i) q' := by
  induction n generalizing i q with
  | zero =>
    rw [enterPair_putSeq_done (by omega)]
    exact ⟨_, .refl _, rfl, rfl⟩
  | succ n ih =>
    have hi : i + 1 < b.params.half := by omega
    have hp : b.params.valid := by simpa using hinv.valid
    by_cases hedge : q.edg = .disabled
    · rw [enterPair_putSeq_done fun hno => hno.2 hedge, hedge, scanPure_disabled]
      exact ⟨_, .refl _, rfl, rfl⟩
    rw [enterPair_putSeq_next hi hedge] at hinv ⊢
    have hread := QuietRun.turn hinv hib nofun (processStep_atPair_none hp hi)
    have hinv' := hread.inv hinv
    have hcompare := processStep_atPair_some (q := q) (h := h) hp hi (b.cell (halfBase b.params h + i))
    by_cases hc : CrossingAt b h q.edg q.lvl (i + 1)
    · rw [if_pos (crosses_iff_crossingAt.2 hc)] at hcompare
      rw [scanPure_hit hc]
      exact ⟨_, hread.trans (.turn hinv' hib nofun hcompare), rfl, rfl, rfl, rfl⟩
    · rw [if_neg (mt crosses_iff_crossingAt.1 hc)] at hcompare
      have hmiss := QuietRun.turn hinv' hib nofun hcompare
      obtain ⟨q', hrest, hends⟩ := ih (by omega) (hmiss.inv hinv')
      rw [scanPure_miss hc]
      exact ⟨q', hread.trans (hmiss.trans hrest), hends⟩

end

/-! ### The window -/

/-- The entry of column `c` of the window around `T` (42_window_mapper.md R145 (g)). -/
theorem windowPure_getElem? {c : Nat} (s : State) (T : Nat) (hc : c < s.params.W) :
    (windowPure s T)[c]? = some (yOf s.params (s.cell (windowIndex s.params T c))) := by
  rw [windowPure, List.getElem?_map, List.getElem?_range hc]
  rfl

/-- FRAME holds the columns of the window around `T` below `col`. -/
def ColumnsDone (b : State) (T col : Nat) (f : List Nat) : Prop :=
  f.length = b.params.W ∧ ∀ c, c < col → f[c]? = (windowPure b T)[c]?

/-- One column more. -/
theorem ColumnsDone.set {T col : Nat} (hf : ColumnsDone b T col f) (hcol : col < b.params.W) :
    ColumnsDone b T (col + 1) (f.set col (yOf b.params (b.cell (windowIndex b.params T col)))) := by
  obtain ⟨hlen, hdone⟩ := hf
  refine ⟨by rw [List.length_set, hlen], fun c hc => ?_⟩
  by_cases heq : c = col
  · subst heq
    rw [List.getElem?_set_self (hlen ▸ hcol), windowPure_getElem? b T hcol]
  · rw [List.getElem?_set_ne (Ne.symm heq)]
    exact hdone c (by omega)

/-- All columns are the window. -/
theorem ColumnsDone.eq_window {T : Nat} (hf : ColumnsDone b T b.params.W f) : f = windowPure b T := by
  obtain ⟨hlen, hdone⟩ := hf
  have hwlen : (windowPure b T).length = b.params.W := by rw [windowPure, List.length_map, List.length_range]
  refine List.ext_getElem? fun c => ?_
  by_cases hc : c < b.params.W
  · exact hdone c hc
  · rw [List.getElem?_eq_none (by omega), List.getElem?_eq_none (by omega)]

theorem processStep_working_map (hp : b.params.valid) (hph : q.phase = .map h) :
    processStep (b.working f q) =
      .next (b.working (f.set q.col (yOf b.params (b.cell (windowIndex b.params q.T q.col))))
        (if q.col + 1 < b.params.W then { q with col := q.col + 1 } else { q with phase := .emit h })) :=
  (processStep_map (s := b.working f q) hph).trans (stepMap_read (s := b.working f q) hp)

/-- From column `q.col` on, the mapping of a block that nobody writes completes the pure window. -/
theorem quiet_map {n : Nat} (hn : q.col + n + 1 = b.params.W) (hib : b.inbox = []) (hinv : Inv (b.working f q))
    (hph : q.phase = .map h) (hf : ColumnsDone b q.T q.col f) :
    ∃ q', QuietRun (b.working f q) (b.working (windowPure b q.T) q') ∧ q'.phase = .emit h ∧ q'.res = q.res := by
  induction n generalizing q f with
  | zero =>
    have hset := hf.set (by omega)
    have hstep := processStep_working_map (f := f) (q := q) (b := b) hinv.valid hph
    rw [show q.col + 1 = b.params.W from hn] at hset
    rw [if_neg (by omega), hset.eq_window] at hstep
    exact ⟨_, .turn hinv hib (by simp [hph]) hstep, rfl, rfl⟩
  | succ n ih =>
    have hset := hf.set (by omega)
    have hstep := processStep_working_map (f := f) (q := q) (b := b) hinv.valid hph
    rw [if_pos (by omega)] at hstep
    have hturn := QuietRun.turn hinv hib (by simp [hph]) hstep
    obtain ⟨q', hrest, hend, hres⟩ := ih (q := { q with col := q.col + 1 }) (by simp only; omega) (hturn.inv hinv) hph hset
    exact ⟨q', hturn.trans hrest, hend, hres⟩

/-! ### One half -/

theorem scanPure_congr (hp : t.params = s.params) (hcell : ∀ k, t.cell k = s.cell k) (h : Half) (lvl : Nat) (edg : Edge)
    (n i : Nat) : scanPure t h lvl edg n i = scanPure s h lvl edg n i := by
  induction n generalizing i with
  | zero => rfl
  | succ n ih => rw [scanPure, scanPure, hp, hcell, hcell, ih]

theorem searchPure_of_cells (hp : t.params = s.params) (hcell : ∀ k, t.cell k = s.cell k) (h : Half) (start lvl : Nat)
    (edg : Edge) : searchPure t h start lvl edg = searchPure s h start lvl edg := by
  rw [searchPure, searchPure, hp, scanPure_congr hp hcell]

theorem windowPure_of_cells (hp : t.params = s.params) (hcell : ∀ k, t.cell k = s.cell k) (T : Nat) :
    windowPure t T = windowPure s T := by
  simp only [windowPure, hp, hcell]

theorem handleAtomic_clear (hf : s.flag h = false) : handleAtomic h s = s := if_neg (by simp [hf])

theorem handleAtomic_hit {r : Nat} (hf : s.flag h = true)
    (hr : searchPure s h (s.cursor h) s.trigLevel s.trigEdge = some r) :
    handleAtomic h s =
      (emitFrame (windowPure s (halfBase s.params h + r)) (s.putFlag h false)).putCursor h (cursorAfter s.params (some r)) := by
  rw [handleAtomic, if_pos hf, hr]
  rfl

theorem handleAtomic_miss (hf : s.flag h = true) (hr : searchPure s h (s.cursor h) s.trigLevel s.trigEdge = none) :
    handleAtomic h s = (s.putFlag h false).putCursor h (cursorAfter s.params none) := by
  rw [handleAtomic, if_pos hf, hr]
  rfl

theorem cell_putFlag (s : State) (h : Half) (x : Bool) (k : Nat) : (s.putFlag h x).cell k = s.cell k :=
  cell_congr (by simp) (by simp) (by simp) k

theorem putFlag_cursor (s : State) (h h' : Half) (x : Bool) : (s.putFlag h x).cursor h' = s.cursor h' := by
  cases h <;> cases h' <;> rfl

/-- The snapshot and the scan of a block that nobody writes: the search is the pure one from the half's cursor. -/
theorem quiet_search (hib : b.inbox = []) (hinv : Inv (b.goto (.snap h))) :
    ∃ q, QuietRun (b.goto (.snap h)) (b.putSeq q) ∧
      ScanEnds b.params h (searchPure b h (b.cursor h) b.trigLevel b.trigEdge) q := by
  have hcursor : (b.goto (.snap h)).cursor h = b.cursor h := by cases h <;> rfl
  have hstep := processStep_snap_eq (s := b.goto (.snap h)) (h := h) rfl
  rw [hcursor] at hstep
  have hsnap := QuietRun.turn hinv hib nofun hstep
  obtain ⟨q, hscan, hends⟩ := quiet_scan rfl hib (hsnap.inv hinv)
  exact ⟨q, hsnap.trans hscan, hends⟩

/-- The mapping, the emit and the cursor write after a hit. -/
theorem quiet_hit {r : Nat} (hib : b.inbox = []) (hinv : Inv (b.putSeq q)) (hends : ScanEnds b.params h (some r) q) :
    ∃ f q', q'.phase = afterHalf h ∧
      QuietRun (b.putSeq q)
        (((emitFrame (windowPure b (halfBase b.params h + r)) b).putCursor h
          (cursorAfter b.params (some r))).working f q') := by
  obtain ⟨hres, hph, hT, hcol⟩ := hends
  have hW : 1 ≤ b.params.W := width_pos hinv.valid
  obtain ⟨q', hmap, hph', hres'⟩ := quiet_map (n := b.params.W - 1) (b := b) (q := q) (f := b.frame) (by omega) hib hinv hph
    ⟨hinv.frameLength, fun c hc => absurd hc (by omega)⟩
  have hinv' := hmap.inv hinv
  have hemit := QuietRun.turn hinv' hib (by simp [hph']) (processStep_emit hph')
  have hcommit := QuietRun.turn (hemit.inv hinv') hib nofun (processStep_commit_of_res rfl (hres'.trans hres))
  rw [hT] at hmap hemit hcommit
  refine ⟨windowPure b (halfBase b.params h + r), { q' with phase := afterHalf h }, rfl, hmap.trans (hemit.trans ?_)⟩
  cases h <;> exact hcommit

/-- The cursor write after a miss. -/
theorem quiet_miss (hib : b.inbox = []) (hinv : Inv (b.putSeq q)) (hends : ScanEnds b.params h none q) :
    ∃ f q', q'.phase = afterHalf h ∧ QuietRun (b.putSeq q) ((b.putCursor h (cursorAfter b.params none)).working f q') := by
  obtain ⟨hres, hph⟩ := hends
  have hcommit := QuietRun.turn hinv hib (by simp [hph]) (processStep_commit_of_res hph hres)
  refine ⟨b.frame, { q with phase := afterHalf h }, rfl, ?_⟩
  cases h <;> exact hcommit

/-- HANDLE(h) with a quiet environment is `handleAtomic` (44_capture_driver.md R170, R174). -/
theorem quiet_handle (hib : s.inbox = []) (hinv : Inv s) (hph : s.seq.phase = .test h) :
    ∃ f q, q.phase = afterHalf h ∧ QuietRun s ((handleAtomic h s).working f q) := by
  have hb : s.seq.phase ≠ .idle := by simp [hph]
  cases hf : s.flag h with
  | false =>
    have hstep := (processStep_test hph).trans (stepTest_clear hf)
    rw [handleAtomic_clear hf]
    exact ⟨s.frame, { s.seq with phase := afterHalf h }, rfl, .turn hinv hib hb hstep⟩
  | true =>
    have htest := QuietRun.turn hinv hib hb ((processStep_test hph).trans (stepTest_set hf))
    have hib' : (s.putFlag h false).inbox = [] := by rwa [putFlag_inbox]
    obtain ⟨q, hsearch, hends⟩ := quiet_search hib' (htest.inv hinv)
    have hinv' := hsearch.inv (htest.inv hinv)
    have hp : (s.putFlag h false).params = s.params := putFlag_params s h false
    rw [putFlag_cursor, putFlag_trigLevel, putFlag_trigEdge, searchPure_of_cells hp (cell_putFlag s h false)] at hends
    cases hr : searchPure s h (s.cursor h) s.trigLevel s.trigEdge with
    | none =>
      rw [hr] at hends
      obtain ⟨f, q', hph', hrest⟩ := quiet_miss hib' hinv' hends
      rw [handleAtomic_miss hf hr, ← hp]
      exact ⟨f, q', hph', htest.trans (hsearch.trans hrest)⟩
    | some r =>
      rw [hr] at hends
      obtain ⟨f, q', hph', hrest⟩ := quiet_hit hib' hinv' hends
      rw [handleAtomic_hit hf hr, ← windowPure_of_cells hp (cell_putFlag s h false), ← hp]
      exact ⟨f, q', hph', htest.trans (hsearch.trans hrest)⟩

/-! ### The whole command -/

/-- `handleAtomic` neither reads nor writes FRAME and SEQ. -/
theorem handleAtomic_working (s : State) (h : Half) (f : List Nat) (q : Sequencer) :
    handleAtomic h (s.working f q) = (handleAtomic h s).working f q := by
  have hflag : (s.working f q).flag h = s.flag h := by cases h <;> rfl
  have hsearch : searchPure (s.working f q) h ((s.working f q).cursor h) s.trigLevel s.trigEdge =
      searchPure s h (s.cursor h) s.trigLevel s.trigEdge := by
    rw [show (s.working f q).cursor h = s.cursor h by cases h <;> rfl]
    exact searchPure_of_cells (s := s) (t := s.working f q) rfl (cell_working s f q) h _ _ _
  cases hf : s.flag h with
  | false => rw [handleAtomic_clear hf, handleAtomic_clear (hflag.trans hf)]
  | true =>
    cases hr : searchPure s h (s.cursor h) s.trigLevel s.trigEdge with
    | none =>
      rw [handleAtomic_miss hf hr, handleAtomic_miss (hflag.trans hf) (hsearch.trans hr)]
      cases h <;> rfl
    | some r =>
      rw [handleAtomic_hit hf hr, handleAtomic_hit (hflag.trans hf) (hsearch.trans hr)]
      cases h <;> rfl

theorem handleAtomic_inbox (s : State) (h : Half) : (handleAtomic h s).inbox = s.inbox := by
  unfold handleAtomic
  split
  · split <;> simp
  · rfl

/-- A running block goes through both halves in turn to the response. -/
theorem quiet_running (hinv : Inv s) (hi : s.seq.phase = .idle) (hib : s.inbox = []) (hr : s.run = .running) :
    ∃ f q, q.phase = .respond ∧ QuietRun (s.goto (.test .h0)) ((processAtomic s).working f q) := by
  have hinv0 : Inv (s.goto (.test .h0)) := execProcess_inv hinv (execProcess_of_running hi hr)
  obtain ⟨f0, q0, hph0, hhalf0⟩ := quiet_handle (s := s.goto (.test .h0)) hib hinv0 rfl
  have hwork0 : (handleAtomic .h0 (s.goto (.test .h0))).working f0 q0 = (handleAtomic .h0 s).working f0 q0 :=
    congrArg (·.working f0 q0) (handleAtomic_working s .h0 s.frame { s.seq with phase := .test .h0 })
  rw [hwork0] at hhalf0
  have hib1 : ((handleAtomic .h0 s).working f0 q0).inbox = [] := (handleAtomic_inbox s .h0).trans hib
  obtain ⟨f1, q1, hph1, hhalf1⟩ := quiet_handle hib1 (hhalf0.inv hinv0) hph0
  rw [handleAtomic_working (handleAtomic .h0 s) .h1 f0 q0] at hhalf1
  refine ⟨f1, q1, hph1, hhalf0.trans ?_⟩
  rw [processAtomic, hr]
  exact hhalf1

/-- The response ends the command. -/
theorem quiet_respond (hib : b.inbox = []) (hinv : Inv (b.working f q)) (hph : q.phase = .respond) :
    QuietRun (b.working f q)
      (({ b with out := b.out ++ [.response 0x00000000] } : State).working f { q with phase := .idle }) := by
  have hstep := processStep_respond (s := b.working f q) hph
  rw [stepRespond, respond_ok_zero] at hstep
  exact .turn hinv hib (by simp [hph]) hstep

theorem processAtomic_inbox (s : State) : (processAtomic s).inbox = s.inbox := by
  unfold processAtomic
  split
  · rfl
  · rw [handleAtomic_inbox, handleAtomic_inbox]

/-- Settles O34: the run to the response and the response, within what `stepsLeft` counts at the start. -/
theorem quietProcessIsProcessAtomic : Obligations.QuietProcessIsProcessAtomic := by
  intro s hinv hi hib
  have hstart : ∃ s0, exec .process s = .next s0 ∧
      ∃ f q, q.phase = .respond ∧ QuietRun s0 ((processAtomic s).working f q) := by
    cases hr : s.run with
    | running => exact ⟨_, execProcess_of_running hi hr, quiet_running hinv hi hib hr⟩
    | stopped =>
      refine ⟨_, execProcess_of_stopped hi hr, s.frame, { s.seq with phase := .respond }, rfl, ?_⟩
      rw [processAtomic, hr]
      exact .refl _
  obtain ⟨s0, hexec, f, q, hph, hrun⟩ := hstart
  have hlast := quiet_respond ((processAtomic_inbox s).trans hib) (hrun.inv (execProcess_inv hinv hexec)) hph
  obtain ⟨n, hn, hrun'⟩ := hrun.trans hlast
  have hbound := execProcess_stepsLeft hexec
  rw [handleSteps] at hbound
  exact ⟨s0, n, _, hexec, by omega, hrun', rfl, rfl⟩

end Sys2Proof.Machine
end

section
/-!
PROOFS. A search that no sample into its half interrupts (41_trigger_search.md R127, 70_reset_and_hazards.md R241): along any
schedule the pairs still to come are those of the pure search of the half as it stood at the snapshot.
-/

namespace Sys2Proof.Machine

variable {s t u : State} {h : Half} {e : Option Event} {i : Nat}

/-- The result of the pure search of the half at the snapshot, with the level and edge that `u` uses. -/
def searchFrom (s : State) (h : Half) (u : State) : Option Nat := searchPure s h (s.cursor h) u.seq.lvl u.seq.edg

/-- Where the search of `h` that began at `s` stands in `u`, and that what is left of it is the pure search. -/
inductive SearchAt (s : State) (h : Half) (u : State) : Prop where
  | snap (hph : u.seq.phase = .snap h) (hc : u.cursor h = s.cursor h)
  | scan (hph : u.seq.phase = .search h)
      (hrest : scanPure s h u.seq.lvl u.seq.edg (s.params.half - 1 - u.seq.i) u.seq.i = searchFrom s h u)
      (hprev : ∀ v, u.seq.prev = some v → v = s.cell (halfBase s.params h + u.seq.i))
  | ended (hph : u.seq.phase = .map h ∨ u.seq.phase = .commit h) (hres : u.seq.res = searchFrom s h u)

/-- The half is as it was at the snapshot. -/
structure HalfKept (s : State) (h : Half) (u : State) : Prop where
  params : u.params = s.params
  cells : ∀ k, inHalf s.params h k = true → u.cell k = s.cell k

/-- A scan that comes to a pair from which the pure search goes on, goes on or has ended with the pure result. -/
theorem searchAt_enterPair (hp : u.params = s.params)
    (hrest : scanPure s h u.seq.lvl u.seq.edg (s.params.half - 1 - i) i = searchFrom s h u) :
    SearchAt s h (enterPair h i u) := by
  by_cases hi : i + 1 < u.params.half ∧ u.seq.edg ≠ .disabled
  · rw [enterPair_next hi]
    exact .scan rfl hrest nofun
  · rw [enterPair_done hi]
    refine .ended (.inr rfl) (Eq.trans ?_ hrest)
    refine (scanPure_eq_none.2 fun q hlo hhi => ?_).symm
    have hedge : u.seq.edg = .disabled := by
      by_contra hne
      exact hi ⟨by rw [hp]; omega, hne⟩
    rw [hedge]
    exact not_crossing_disabled

theorem SearchAt.congr (hu : SearchAt s h u) (hseq : t.seq = u.seq) (hc : t.cursor h = u.cursor h) : SearchAt s h t := by
  have hfrom : searchFrom s h t = searchFrom s h u := by rw [searchFrom, searchFrom, hseq]
  cases hu with
  | snap hph hc' => exact .snap (hseq ▸ hph) (hc.trans hc')
  | scan hph hrest hprev => exact .scan (hseq ▸ hph) (by rw [hfrom, hseq, hrest]) (hseq ▸ hprev)
  | ended hph hres => exact .ended (hseq ▸ hph) (by rw [hfrom, hseq, hres])

/-- The second read of a pair decides what is left of the pure search. -/
theorem searchAt_compare (hk : HalfKept s h u) (hp : s.params.valid) (hi : u.seq.i + 1 < s.params.half)
    (hrest : scanPure s h u.seq.lvl u.seq.edg (s.params.half - 1 - u.seq.i) u.seq.i = searchFrom s h u) :
    SearchAt s h
      (if crosses u.seq.edg u.seq.lvl (s.cell (halfBase s.params h + u.seq.i)) (u.cell (halfBase u.params h + u.seq.i + 1)) then
        enterMap h (u.seq.i + 1) u
      else enterPair h (u.seq.i + 1) u) := by
  have hcur : u.cell (halfBase u.params h + u.seq.i + 1) = s.cell (halfBase s.params h + u.seq.i + 1) := by
    rw [hk.params]
    exact hk.cells _ (inHalf_base_add hp h hi)
  rw [show s.params.half - 1 - u.seq.i = (s.params.half - 1 - (u.seq.i + 1)) + 1 by omega] at hrest
  rw [hcur]
  by_cases hc : CrossingAt s h u.seq.edg u.seq.lvl (u.seq.i + 1)
  · rw [if_pos (crosses_iff_crossingAt.2 hc)]
    rw [scanPure_hit hc] at hrest
    exact .ended (.inl rfl) hrest
  · rw [if_neg (mt crosses_iff_crossingAt.1 hc)]
    rw [scanPure_miss hc] at hrest
    exact searchAt_enterPair hk.params hrest

/-- A turn of the search takes it one read on. -/
theorem processStep_searchAt (hinv : Inv u) (hk : HalfKept s h u) (hu : SearchAt s h u)
    (hph : u.seq.phase = .snap h ∨ u.seq.phase = .search h) (ht : processStep u = .next t) : SearchAt s h t := by
  cases hu with
  | snap hsnap hc =>
    rw [processStep_snap_eq hsnap] at ht
    cases ht
    exact searchAt_enterPair (u := u.snapped) hk.params (by rw [hc]; rfl)
  | scan hscan hrest hprev =>
    obtain ⟨-, hi, -⟩ := (seqOk_search hscan).1 hinv.seqOk
    have hp : s.params.valid := hk.params ▸ hinv.valid
    rw [processStep_search hscan] at ht
    cases hv : u.seq.prev with
    | none =>
      rw [stepSearch_first hv (halfBase_add_lt hinv.valid h (by omega))] at ht
      cases ht
      refine .scan hscan hrest ?_
      rintro _ ⟨⟩
      rw [hk.params]
      rw [hk.params] at hi
      exact hk.cells _ (inHalf_base_add hp h (by omega))
    | some v =>
      rw [stepSearch_second hv (halfBase_add_lt hinv.valid h hi), hprev v hv] at ht
      have hnext := searchAt_compare hk hp (hk.params ▸ hi) hrest
      split at ht <;> cases ht
      · rwa [if_pos ‹_›] at hnext
      · rwa [if_neg ‹_›] at hnext
  | ended hend =>
    rcases hph with hph | hph <;> rcases hend with hend | hend <;> cases hph.symm.trans hend

/-- A step keeps the half unless it is a sample while WPTR lies in it. -/
theorem step_halfKept (hs : step u = .next t) (hno : inHalf u.params h u.wptr = true → ¬ comesSample u)
    (hk : HalfKept s h u) : HalfKept s h t := by
  obtain ⟨hp, hn⟩ := step_keep hs
  refine ⟨hp.trans hk.params, fun k hkh => Eq.trans ?_ (hk.cells k hkh)⟩
  obtain ⟨hmem, hcell, -⟩ := onlyTheProducerWritesTheBuffer u t hs
  by_cases hw : inHalf u.params h u.wptr = true
  · refine cell_congr ?_ hp hn k
    by_contra hne
    exact hno hw (hmem hne).1
  · refine hcell k fun heq => hw ?_
    rwa [← heq, hk.params]

theorem step_searchAt (hinv : Inv u) (hs : step u = .next t) (hk : HalfKept s h u) (hu : SearchAt s h u)
    (hph : u.seq.phase = .snap h ∨ u.seq.phase = .search h) : SearchAt s h t := by
  have hb : u.seq.phase ≠ .idle := by rcases hph with hph | hph <;> simp [hph]
  have hk' : HalfKept s h u.popped := ⟨hk.params, hk.cells⟩
  have hu' : SearchAt s h u.popped := hu.congr rfl (by cases h <;> rfl)
  rcases fires_busy (s := u.popped) hb (step_fires hs).2 with ⟨hseq, hc⟩ | ⟨-, ht⟩
  · exact hu'.congr hseq (hc h)
  · exact processStep_searchAt hinv.popped hk' hu' hph (processStep_of_turns ht)

/-- Along the whole schedule the half is kept and the search goes on as the pure one. -/
theorem run_searchAt {n : Nat} (hinv : Inv s) (hph : s.seq.phase = .snap h) (hrun : run n s = .next t)
    (hquiet : ∀ m u, m < n → run m s = .next u →
      (inHalf u.params h u.wptr = true → ¬ comesSample u) ∧ (u.seq.phase = .snap h ∨ u.seq.phase = .search h)) :
    HalfKept s h t ∧ SearchAt s h t := by
  induction n generalizing t with
  | zero => cases hrun; exact ⟨⟨rfl, fun _ _ => rfl⟩, .snap hph rfl⟩
  | succ n ih =>
    obtain ⟨u, hu, hs⟩ := run_succ hrun
    obtain ⟨hk, hat⟩ := ih hu fun m v hm => hquiet m v (Nat.lt_succ_of_lt hm)
    obtain ⟨hno, hphu⟩ := hquiet n u (Nat.lt_succ_self n) hu
    exact ⟨step_halfKept hs hno hk, step_searchAt (run_inv hinv hu) hs hk hat hphu⟩

/-- Settles O36: where the search has ended, `SearchAt` gives its result. -/
theorem uninterruptedSearchReturnsFirstCrossing : Obligations.UninterruptedSearchReturnsFirstCrossing := by
  intro s t h n hinv hph hrun hquiet hend
  cases (run_searchAt hinv hph hrun hquiet).2 with
  | ended _ hres => exact hres
  | snap hph' => rcases hend with hend | hend <;> cases hph'.symm.trans hend
  | scan hph' => rcases hend with hend | hend <;> cases hph'.symm.trans hend

end Sys2Proof.Machine
end

section
/-!
PROOFS. Two states that answer alike: what has to be shown of a relation so that steps from related states are the same stop or
lead to related states, and the states that differ in the registers START overwrites (10_state.md R35).
-/

namespace Sys2Proof.Machine

variable {s t : State} {R P : State → State → Prop} {a b : Host.Outcome State Fault Refusal}

/-! ### Equal answers -/

theorem SameAnswer.of_next {u v : State} (ha : a = .next u) (hb : b = .next v) (h : R u v) : SameAnswer R a b := by
  rw [ha, hb]
  exact h

theorem SameAnswer.of_refused {r : Refusal} (ha : a = .refused r) (hb : b = .refused r) : SameAnswer R a b := by
  rw [ha, hb]
  exact rfl

theorem SameAnswer.self (hR : ∀ u, R u u) (a : Host.Outcome State Fault Refusal) : SameAnswer R a a := by
  cases a with
  | next u => exact hR u
  | fault f => exact rfl
  | refused r => exact rfl

/-- A command between commands is answered alike if its effect is; during a PROCESS it is refused alike. -/
theorem SameAnswer.whenIdle (hph : t.seq.phase = s.seq.phase) (h : s.seq.phase = .idle → SameAnswer R a b) :
    SameAnswer R (whenIdle s a) (whenIdle t b) := by
  by_cases hi : s.seq.phase = .idle
  · rw [whenIdle_of_idle hi, whenIdle_of_idle (hph.trans hi)]
    exact h hi
  · exact .of_refused (whenIdle_of_busy hi a) (whenIdle_of_busy (hph ▸ hi) b)

/-- What has to be shown for steps from states related by `P` to be answered alike up to `R`. -/
structure AnswersAlike (P R : State → State → Prop) : Prop where
  params : ∀ {s t}, P s t → t.params = s.params
  inbox : ∀ {s t}, P s t → t.inbox = s.inbox
  phase : ∀ {s t}, P s t → t.seq.phase = s.seq.phase
  pop : ∀ {s t}, P s t → ∀ rest, P { s with inbox := rest } { t with inbox := rest }
  arm : ∀ {s t}, P s t → ∀ x, R { s with armPort := x } { t with armPort := x }
  reserved : ∀ {s t}, P s t → R (respond .errIllegal 0 s) (respond .errIllegal 0 t)
  exec : ∀ {s t}, P s t → ∀ i, SameAnswer R (exec i s) (exec i t)
  turn : ∀ {s t}, P s t → SameAnswer R (processStep s) (processStep t)

namespace AnswersAlike

theorem takeCommand (h : AnswersAlike P R) (hst : P s t) (w : Word) : SameAnswer R (takeCommand w s) (takeCommand w t) := by
  cases hd : decodeCommand w with
  | instr i =>
    rw [takeCommand_instr hd, takeCommand_instr hd]
    exact h.exec hst i
  | reserved r =>
    refine .of_next (takeCommand_reserved hd) (takeCommand_reserved hd) ?_
    rw [← respond_errIllegal_zero, ← respond_errIllegal_zero]
    exact h.reserved hst

theorem takeSample (h : AnswersAlike P R) (hst : P s t) (w : SampleWord) :
    SameAnswer R (takeSample w s) (takeSample w t) := by
  cases hd : decodeSample s.params.adcBits w with
  | instr i =>
    rw [takeSample_instr hd, takeSample_instr (h.params hst ▸ hd)]
    exact h.exec hst i
  | reserved r =>
    have hrefused {u : State} (hd : decodeSample u.params.adcBits w = .reserved r) :
        Machine.takeSample w u = .refused .sampleWiderThanPort := by
      simp only [Machine.takeSample, decode, hd]
    exact .of_refused (hrefused hd) (hrefused (h.params hst ▸ hd))

theorem deliver (h : AnswersAlike P R) (hst : P s t) (e : Event) : SameAnswer R (deliver e s) (deliver e t) := by
  cases e with
  | arm x => exact h.arm hst x
  | turn => exact h.turn hst
  | sample w => exact h.takeSample hst w
  | command a w =>
    cases a with
    | consumer => exact .whenIdle (h.phase hst) fun _ => h.takeCommand hst w
    | controller => exact h.takeCommand hst w

/-- Steps are answered alike. -/
theorem step (h : AnswersAlike P R) (hst : P s t) : SameAnswer R (step s) (step t) := by
  have hp := h.params hst
  have hib := h.inbox hst
  by_cases hv : s.params.valid
  · cases hs : s.inbox with
    | nil =>
      rw [step_nil hv hs, step_nil (hp ▸ hv) (hib.trans hs)]
      exact h.turn hst
    | cons e rest =>
      rw [step_cons hv hs, step_cons (hp ▸ hv) (hib.trans hs)]
      exact h.deliver (h.pop hst rest) e
  · exact .of_refused (if_neg hv) (if_neg (hp ▸ hv))

end AnswersAlike

/-! ### The registers that START overwrites -/

/-- The block `s` with other cursors, flags and WPTR. -/
abbrev State.withRegisters (s : State) (c0 c1 : Nat) (half full : Bool) (w : Nat) : State :=
  { s with cursor0 := c0, cursor1 := c1, halfFlag := half, fullFlag := full, wptr := w }

section

variable {c0 c1 w : Nat} {half full : Bool}

/-- While Stopped with no half handled every operation answers alike: START overwrites the registers, the others ignore them. -/
theorem exec_withRegisters (hr : s.run = .stopped) (hph : s.seq.phase = .idle ∨ s.seq.phase = .respond) (i : Instr) :
    SameAnswer EqualToStart (exec i s) (exec i (s.withRegisters c0 c1 half full w)) := by
  cases i with
  | setTrigger level edge => exact .inr ⟨hr, hph, rfl⟩
  | pSample v => exact .of_next (exec_pSample_stopped hr) (exec_pSample_stopped hr) (.inr ⟨hr, hph, rfl⟩)
  | stop => exact .whenIdle rfl fun hi => .inr ⟨rfl, .inl hi, rfl⟩
  | getTriggerLevel => exact .whenIdle rfl fun hi => .inr ⟨hr, .inl hi, rfl⟩
  | getTriggerEdge => exact .whenIdle rfl fun hi => .inr ⟨hr, .inl hi, rfl⟩
  | start =>
    refine .whenIdle rfl fun hi => ?_
    rw [hr]
    cases s.armPort with
    | true => exact .inl rfl
    | false => exact .inr ⟨hr, .inl hi, rfl⟩
  | isRunning =>
    refine .whenIdle rfl fun hi => ?_
    rw [hr]
    exact .inr ⟨hr, .inl hi, rfl⟩
  | process =>
    refine .whenIdle rfl fun _ => ?_
    rw [hr]
    exact .inr ⟨hr, .inr rfl, rfl⟩

/-- Between commands a turn changes nothing, and the response step looks at none of the registers. -/
theorem processStep_withRegisters (hr : s.run = .stopped) (hph : s.seq.phase = .idle ∨ s.seq.phase = .respond) :
    SameAnswer EqualToStart (processStep s) (processStep (s.withRegisters c0 c1 half full w)) := by
  rcases hph with hi | hresp
  · exact .of_next (processStep_idle hi) (processStep_idle hi) (.inr ⟨hr, .inl hi, rfl⟩)
  · exact .of_next (processStep_respond hresp) (processStep_respond hresp) (.inr ⟨hr, .inl rfl, rfl⟩)

end

/-- Related states are equal, or stopped with other registers. -/
theorem equalToStart_iff :
    EqualToStart s t ↔
      t = s ∨ s.run = .stopped ∧ (s.seq.phase = .idle ∨ s.seq.phase = .respond) ∧
        ∃ c0 c1 half full w, t = s.withRegisters c0 c1 half full w := by
  refine or_congr eq_comm (and_congr_right fun _ => and_congr_right fun _ => ⟨fun ht => ⟨_, _, _, _, _, ht⟩, ?_⟩)
  rintro ⟨c0, c1, half, full, w, rfl⟩
  rfl

theorem EqualToStart.params_eq (h : EqualToStart s t) : t.params = s.params := by
  rcases equalToStart_iff.1 h with rfl | ⟨-, -, _, _, _, _, _, rfl⟩ <;> rfl

theorem EqualToStart.inbox_eq (h : EqualToStart s t) : t.inbox = s.inbox := by
  rcases equalToStart_iff.1 h with rfl | ⟨-, -, _, _, _, _, _, rfl⟩ <;> rfl

theorem EqualToStart.phase_eq (h : EqualToStart s t) : t.seq.phase = s.seq.phase := by
  rcases equalToStart_iff.1 h with rfl | ⟨-, -, _, _, _, _, _, rfl⟩ <;> rfl

theorem EqualToStart.out_eq (h : EqualToStart s t) : t.out = s.out := by
  rcases equalToStart_iff.1 h with rfl | ⟨-, -, _, _, _, _, _, rfl⟩ <;> rfl

/-- An update that touches none of the registers, RUN and SEQ keeps states related. -/
theorem EqualToStart.update (h : EqualToStart s t) {f : State → State} (hrun : (f s).run = s.run) (hseq : (f s).seq = s.seq)
    (hf : ∀ c0 c1 half full w, f (s.withRegisters c0 c1 half full w) = (f s).withRegisters c0 c1 half full w) :
    EqualToStart (f s) (f t) := by
  rcases equalToStart_iff.1 h with rfl | ⟨hr, hph, c0, c1, half, full, w, rfl⟩
  · exact .inl rfl
  · exact equalToStart_iff.2 (.inr ⟨hrun.trans hr, hseq ▸ hph, c0, c1, half, full, w, hf ..⟩)

theorem equalToStart_answersAlike : AnswersAlike EqualToStart EqualToStart where
  params h := h.params_eq
  inbox h := h.inbox_eq
  phase h := h.phase_eq
  pop h rest := h.update (f := fun s => { s with inbox := rest }) rfl rfl fun _ _ _ _ _ => rfl
  arm h x := h.update (f := fun s => { s with armPort := x }) rfl rfl fun _ _ _ _ _ => rfl
  reserved h := h.update rfl rfl fun _ _ _ _ _ => rfl
  exec h i := by
    rcases equalToStart_iff.1 h with rfl | ⟨hr, hph, _, _, _, _, _, rfl⟩
    · exact .self (fun _ => .inl rfl) _
    · exact exec_withRegisters hr hph i
  turn h := by
    rcases equalToStart_iff.1 h with rfl | ⟨hr, hph, _, _, _, _, _, rfl⟩
    · exact .self (fun _ => .inl rfl) _
    · exact processStep_withRegisters hr hph

/-- Settles O53: the registers are no outputs, and `equalToStart_answersAlike`. -/
theorem stoppedRegistersAreUnobservable : Obligations.StoppedRegistersAreUnobservable :=
  ⟨fun _ _ h => h.out_eq.symm, fun _ _ h => equalToStart_answersAlike.step h⟩

end Sys2Proof.Machine
end

section
/-!
PROOFS. The dead work values of SEQ and entries of FRAME (10_state.md R34, 43_render_interface.md R158): states that differ in
them only answer alike, position by position.
-/

namespace Sys2Proof.Machine

variable {s t : State} {h : Half} {f g : List Nat} {q r : Sequencer}

/-! ### The live values by position -/

/-- FRAME has the same length at every position. -/
theorem LiveFrameEqual.length (hf : LiveFrameEqual q f g) : f.length = g.length := by
  unfold LiveFrameEqual at hf
  split at hf
  case h_1 => exact hf.1
  case h_2 => exact congrArg _ hf
  all_goals exact hf

theorem LiveSeqEqual.phase (hq : LiveSeqEqual q r) : r.phase = q.phase := hq.1.symm

/-- SEQ with other values of what a scan has not written yet. -/
abbrev Sequencer.besideScan (q : Sequencer) (c T : Nat) (x : Option Nat) : Sequencer := { q with col := c, T := T, res := x }

/-- SEQ with other values of what a mapping does not read. -/
abbrev Sequencer.besideMap (q : Sequencer) (i : Nat) (p : Option Nat) (l : Nat) (e : Edge) : Sequencer :=
  { q with i := i, prev := p, lvl := l, edg := e }

theorem liveSeq_search (hph : q.phase = .search h) (hq : LiveSeqEqual q r) : ∃ c T x, r = q.besideScan c T x := by
  obtain ⟨hphase, hlive⟩ := hq
  rw [hph] at hlive
  obtain ⟨hi, hprev, hlvl, hedg⟩ := hlive
  exact ⟨r.col, r.T, r.res, by rw [Sequencer.besideScan, hphase, hi, hprev, hlvl, hedg]⟩

theorem liveSeq_map (hph : q.phase = .map h) (hq : LiveSeqEqual q r) : ∃ i p l e, r = q.besideMap i p l e := by
  obtain ⟨hphase, hlive⟩ := hq
  rw [hph] at hlive
  obtain ⟨hcol, hT, hres⟩ := hlive
  exact ⟨r.i, r.prev, r.lvl, r.edg, by rw [Sequencer.besideMap, hphase, hcol, hT, hres]⟩

theorem liveSeq_emit (hph : q.phase = .emit h) (hq : LiveSeqEqual q r) : q.res = r.res := by
  obtain ⟨-, hlive⟩ := hq
  rwa [hph] at hlive

theorem liveSeq_commit (hph : q.phase = .commit h) (hq : LiveSeqEqual q r) : q.res = r.res := by
  obtain ⟨-, hlive⟩ := hq
  rwa [hph] at hlive

theorem liveFrame_map (hph : q.phase = .map h) (hf : LiveFrameEqual q f g) : ∀ c, c < q.col → f[c]? = g[c]? := by
  unfold LiveFrameEqual at hf
  rw [hph] at hf
  exact hf.2

theorem liveFrame_emit (hph : q.phase = .emit h) (hf : LiveFrameEqual q f g) : f = g := by
  unfold LiveFrameEqual at hf
  rwa [hph] at hf

/-! ### Turns -/

theorem EqualButDead.exists_working (hd : EqualButDead s t) : ∃ g r, t = s.working g r := ⟨t.frame, t.seq, hd.1⟩

theorem equalButDead_working :
    EqualButDead s (s.working g r) ↔ LiveSeqEqual s.seq r ∧ LiveFrameEqual s.seq s.frame g :=
  ⟨fun hd => hd.2, fun hlive => ⟨rfl, hlive⟩⟩

/-- The scan writes the work values it goes on with. -/
theorem equalButDead_enterPair (hlvl : s.seq.lvl = r.lvl) (hedg : s.seq.edg = r.edg) (hlen : s.frame.length = g.length)
    (i : Nat) : EqualButDead (enterPair h i s) (enterPair h i (s.working g r)) := by
  by_cases hi : i + 1 < s.params.half ∧ s.seq.edg ≠ .disabled
  · rw [enterPair_next hi, enterPair_next (s := s.working g r) (hedg ▸ hi)]
    exact ⟨rfl, ⟨rfl, rfl, rfl, hlvl, hedg⟩, hlen⟩
  · rw [enterPair_done hi, enterPair_done (s := s.working g r) (hedg ▸ hi)]
    exact ⟨rfl, ⟨rfl, rfl⟩, hlen⟩

theorem sameAnswer_test (hph : s.seq.phase = .test h) (hr : r.phase = .test h) (hlen : s.frame.length = g.length) :
    SameAnswer EqualButDead (processStep s) (processStep (s.working g r)) := by
  have hflag : (s.working g r).flag h = s.flag h := by cases h <;> rfl
  rw [processStep_test hph, processStep_test (s := s.working g r) hr]
  cases hf : s.flag h with
  | true =>
    refine .of_next (stepTest_set hf) (stepTest_set (hflag.trans hf)) ?_
    cases h <;> exact ⟨rfl, ⟨rfl, trivial⟩, hlen⟩
  | false =>
    refine .of_next (stepTest_clear hf) (stepTest_clear (hflag.trans hf)) ?_
    cases h <;> exact ⟨rfl, ⟨rfl, trivial⟩, hlen⟩

theorem sameAnswer_snap (hph : s.seq.phase = .snap h) (hr : r.phase = .snap h) (hlen : s.frame.length = g.length) :
    SameAnswer EqualButDead (processStep s) (processStep (s.working g r)) := by
  have hcursor : (s.working g r).cursor h = s.cursor h := by cases h <;> rfl
  refine .of_next (processStep_snap_eq hph) (processStep_snap_eq (s := s.working g r) hr) ?_
  rw [hcursor]
  exact equalButDead_enterPair (s := s.snapped) (r := { r with lvl := s.trigLevel, edg := s.trigEdge }) rfl rfl hlen _

theorem sameAnswer_search (hinv : Inv s) (hph : s.seq.phase = .search h) (hlen : s.frame.length = g.length) (c T : Nat)
    (x : Option Nat) : SameAnswer EqualButDead (processStep s) (processStep (s.working g (s.seq.besideScan c T x))) := by
  obtain ⟨-, hi, -⟩ := (seqOk_search hph).1 hinv.seqOk
  rw [processStep_search hph, processStep_search (s := s.working g (s.seq.besideScan c T x)) hph]
  cases hprev : s.seq.prev with
  | none =>
    have hlt := halfBase_add_lt hinv.valid h (Nat.lt_of_succ_lt hi)
    refine .of_next (stepSearch_first hprev hlt)
      (stepSearch_first (s := s.working g (s.seq.besideScan c T x)) hprev hlt) ⟨rfl, ⟨rfl, ?_⟩, ?_⟩
    · simp [hph, cell_working]
    · simpa [LiveFrameEqual, hph] using hlen
  | some v =>
    have hlt := halfBase_add_lt hinv.valid h hi
    have hs := stepSearch_second hprev hlt
    have ht := stepSearch_second (s := s.working g (s.seq.besideScan c T x)) hprev hlt
    by_cases hc : crosses s.seq.edg s.seq.lvl v (s.cell (halfBase s.params h + s.seq.i + 1)) = true
    · exact .of_next (hs.trans (if_pos hc)) (ht.trans (if_pos hc))
        ⟨rfl, ⟨rfl, rfl, rfl, rfl⟩, hlen, fun c hc => absurd hc (Nat.not_lt_zero c)⟩
    · exact .of_next (hs.trans (if_neg hc)) (ht.trans (if_neg hc))
        (equalButDead_enterPair (r := s.seq.besideScan c T x) rfl rfl hlen _)

/-- A store at the same column keeps two FRAMEs in agreement, on that column too. -/
theorem getElem?_set_congr {col y : Nat} (hlen : f.length = g.length) (hfg : ∀ c, c < col → f[c]? = g[c]?) :
    ∀ c, c < col + 1 → (f.set col y)[c]? = (g.set col y)[c]? := by
  intro c hc
  by_cases heq : c = col
  · rw [heq, List.getElem?_set, List.getElem?_set, hlen, if_pos rfl, if_pos rfl]
  · rw [List.getElem?_set_ne (Ne.symm heq), List.getElem?_set_ne (Ne.symm heq)]
    exact hfg c (by omega)

/-- The last column makes two FRAMEs equal. -/
theorem set_last_congr {col y : Nat} (hlen : f.length = g.length) (hlast : f.length ≤ col + 1)
    (hfg : ∀ c, c < col → f[c]? = g[c]?) : f.set col y = g.set col y := by
  refine List.ext_getElem? fun c => ?_
  by_cases hc : c < col + 1
  · exact getElem?_set_congr hlen hfg c hc
  · rw [List.getElem?_eq_none (by rw [List.length_set]; omega), List.getElem?_eq_none (by rw [List.length_set]; omega)]

theorem sameAnswer_map (hinv : Inv s) (hph : s.seq.phase = .map h) (hf : LiveFrameEqual s.seq s.frame g) (i : Nat) (p : Option Nat)
    (l : Nat) (e : Edge) :
    SameAnswer EqualButDead (processStep s) (processStep (s.working g (s.seq.besideMap i p l e))) := by
  have hcols := liveFrame_map hph hf
  refine .of_next ((processStep_map hph).trans (stepMap_read hinv.valid))
    ((processStep_map (s := s.working g (s.seq.besideMap i p l e)) hph).trans (stepMap_read hinv.valid)) ?_
  simp only [cell_working]
  by_cases hcol : s.seq.col + 1 < s.params.W
  · rw [if_pos hcol, if_pos hcol]
    refine ⟨rfl, ⟨rfl, ?_⟩, ?_⟩
    · simp [hph]
    · simp only [LiveFrameEqual, hph, List.length_set]
      exact ⟨hf.length, getElem?_set_congr hf.length hcols⟩
  · rw [if_neg hcol, if_neg hcol]
    exact ⟨rfl, ⟨rfl, rfl⟩, set_last_congr hf.length (by rw [hinv.frameLength]; omega) hcols⟩

theorem sameAnswer_emit (hph : s.seq.phase = .emit h) (hr : r.phase = .emit h) (hres : s.seq.res = r.res) :
    SameAnswer EqualButDead (processStep s) (processStep (s.working s.frame r)) :=
  .of_next (processStep_emit hph) (processStep_emit (s := s.working s.frame r) hr) ⟨rfl, ⟨rfl, hres⟩, rfl⟩

theorem sameAnswer_commit (hph : s.seq.phase = .commit h) (hr : r.phase = .commit h) (hres : s.seq.res = r.res)
    (hlen : s.frame.length = g.length) : SameAnswer EqualButDead (processStep s) (processStep (s.working g r)) := by
  refine .of_next (processStep_commit_of_res hph hres) (processStep_commit_of_res (s := s.working g r) hr rfl) ?_
  cases h <;> exact ⟨rfl, ⟨rfl, trivial⟩, hlen⟩

theorem sameAnswer_respond (hph : s.seq.phase = .respond) (hr : r.phase = .respond) (hlen : s.frame.length = g.length) :
    SameAnswer EqualButDead (processStep s) (processStep (s.working g r)) :=
  .of_next (processStep_respond hph) (processStep_respond (s := s.working g r) hr) ⟨rfl, ⟨rfl, trivial⟩, hlen⟩

/-- Every position's step reads live values only. -/
theorem sameAnswer_turn (hinv : Inv s) (hd : EqualButDead s t) : SameAnswer EqualButDead (processStep s) (processStep t) := by
  obtain ⟨g, r, rfl⟩ := hd.exists_working
  obtain ⟨hq, hf⟩ := equalButDead_working.1 hd
  have hphase := hq.phase
  cases hph : s.seq.phase with
  | idle =>
    exact .of_next (processStep_idle hph) (processStep_idle (s := s.working g r) (hphase.trans hph)) hd
  | test h => exact sameAnswer_test hph (hphase.trans hph) hf.length
  | snap h => exact sameAnswer_snap hph (hphase.trans hph) hf.length
  | search h =>
    obtain ⟨c, T, x, rfl⟩ := liveSeq_search hph hq
    exact sameAnswer_search hinv hph hf.length c T x
  | map h =>
    obtain ⟨i, p, l, e, rfl⟩ := liveSeq_map hph hq
    exact sameAnswer_map hinv hph hf i p l e
  | emit h =>
    obtain rfl := liveFrame_emit hph hf
    exact sameAnswer_emit hph (hphase.trans hph) (liveSeq_emit hph hq)
  | commit h => exact sameAnswer_commit hph (hphase.trans hph) (liveSeq_commit hph hq) hf.length
  | respond => exact sameAnswer_respond hph (hphase.trans hph) hf.length

/-! ### Commands and samples -/

theorem EqualButDead.phase_eq (hd : EqualButDead s t) : t.seq.phase = s.seq.phase := by
  obtain ⟨-, hq, -⟩ := hd
  exact hq.phase

/-- An update of the rest of the block keeps the dead values dead. -/
theorem EqualButDead.update (hd : EqualButDead s t) {u : State → State} (hseq : (u s).seq = s.seq)
    (hframe : (u s).frame = s.frame) (hu : ∀ g r, u (s.working g r) = (u s).working g r) : EqualButDead (u s) (u t) := by
  obtain ⟨g, r, rfl⟩ := hd.exists_working
  obtain ⟨hq, hf⟩ := equalButDead_working.1 hd
  rw [hu g r, equalButDead_working, hseq, hframe]
  exact ⟨hq, hf⟩

/-- PROCESS begins at a position with no live work value. -/
theorem EqualButDead.begin (hd : EqualButDead s t) {ph : Phase} (hph : ph = .respond ∨ ph = .test .h0) :
    EqualButDead (s.goto ph) (t.goto ph) := by
  obtain ⟨g, r, rfl⟩ := hd.exists_working
  have hf := (equalButDead_working.1 hd).2
  rcases hph with rfl | rfl <;> exact ⟨rfl, ⟨rfl, trivial⟩, hf.length⟩

theorem sameAnswer_exec (hinv : Inv s) (hd : EqualButDead s t) (i : Instr) :
    SameAnswer EqualButDead (exec i s) (exec i t) := by
  have hphase := hd.phase_eq
  obtain ⟨hrun, harm, hparams, hwptr⟩ :
      t.run = s.run ∧ t.armPort = s.armPort ∧ t.params = s.params ∧ t.wptr = s.wptr := by
    rw [hd.1]
    exact ⟨rfl, rfl, rfl, rfl⟩
  cases i with
  | setTrigger level edge =>
    exact hd.update (u := fun x => respond .ok 0 (x.setTrig (clampLevel x.params level) edge)) rfl rfl fun _ _ => rfl
  | pSample v =>
    cases hr : s.run with
    | stopped => exact .of_next (exec_pSample_stopped hr) (exec_pSample_stopped (hrun.trans hr)) hd
    | running =>
      have hlt : t.wptr < t.params.L := by rw [hwptr, hparams]; exact hinv.wptr
      exact .of_next (exec_pSample_running hr hinv.wptr) (exec_pSample_running (hrun.trans hr) hlt)
        (hd.update (u := fun x => x.stored v) rfl rfl fun _ _ => rfl)
  | stop =>
    exact .whenIdle hphase fun _ =>
      hd.update (u := fun x => respond .ok 0 { x with run := .stopped }) rfl rfl fun _ _ => rfl
  | getTriggerLevel =>
    exact .whenIdle hphase fun _ => hd.update (u := fun x => respond .ok x.trigLevel x) rfl rfl fun _ _ => rfl
  | getTriggerEdge =>
    exact .whenIdle hphase fun _ => hd.update (u := fun x => respond .ok x.trigEdge.code.toNat x) rfl rfl fun _ _ => rfl
  | start =>
    refine .whenIdle hphase fun _ => ?_
    rw [hrun, harm]
    cases s.run with
    | running => exact hd.update (u := respond .ok 0) rfl rfl fun _ _ => rfl
    | stopped =>
      cases s.armPort with
      | true => exact hd.update (u := fun x => respond .ok 0 x.armed) rfl rfl fun _ _ => rfl
      | false => exact hd.update (u := reportError .errHardware) rfl rfl fun _ _ => rfl
  | isRunning =>
    refine .whenIdle hphase fun _ => ?_
    rw [hrun]
    cases s.run with
    | running => exact hd.update (u := respond .ok 1) rfl rfl fun _ _ => rfl
    | stopped => exact hd.update (u := respond .ok 0) rfl rfl fun _ _ => rfl
  | process =>
    refine .whenIdle hphase fun _ => ?_
    rw [hrun]
    cases s.run with
    | running => exact hd.begin (.inr rfl)
    | stopped => exact hd.begin (.inl rfl)

/-! ### Every step -/

theorem EqualButDead.params_eq (hd : EqualButDead s t) : t.params = s.params := by rw [hd.1]

theorem EqualButDead.inbox_eq (hd : EqualButDead s t) : t.inbox = s.inbox := by rw [hd.1]

theorem EqualButDead.out_eq (hd : EqualButDead s t) : t.out = s.out := by rw [hd.1]

theorem equalButDead_answersAlike : AnswersAlike (fun s t => Inv s ∧ EqualButDead s t) EqualButDead where
  params h := h.2.params_eq
  inbox h := h.2.inbox_eq
  phase h := h.2.phase_eq
  pop h rest := ⟨h.1.withInbox rest, h.2.update (u := fun x => { x with inbox := rest }) rfl rfl fun _ _ => rfl⟩
  arm h b := h.2.update (u := fun x => { x with armPort := b }) rfl rfl fun _ _ => rfl
  reserved h := h.2.update rfl rfl fun _ _ => rfl
  exec h i := sameAnswer_exec h.1 h.2 i
  turn h := sameAnswer_turn h.1 h.2

/-- Settles O54: dead values are no outputs, and `equalButDead_answersAlike`. -/
theorem deadWorkValuesAreUnobservable : Obligations.DeadWorkValuesAreUnobservable :=
  ⟨fun _ _ hd => hd.out_eq.symm, fun _ _ hinv hd => equalButDead_answersAlike.step ⟨hinv, hd⟩⟩

end Sys2Proof.Machine
end
